-- ==== Sys2Proof/Word.lean ====
section
/-! DEFINITION. The bit vectors the spec treats as bits (00_scope.md R12, 30_encoding.md R107). -/

namespace Sys2Proof

/-- A byte, bits numbered 0 (least significant) to 7 (R12). -/
abbrev Byte := BitVec 8

/-- The address field of a frame: `ADDR_BYTES` = 3 bytes (R8, R107). -/
abbrev FlashAddr := BitVec 24

end Sys2Proof
end

