-- ==== Sys2Proof/Config.lean ====
section
/-! DEFINITION. What is fixed for the machine and what the spec leaves open: the constants of 00_scope.md R8, the
parameter and descriptor records of R9, R40 and R41, and the free values (the draws of 93_implementation_defined.md part
A) as uninterpreted constants. Well-formedness of the parameters is checked in Machine/Registry.lean. -/

namespace Sys2Proof

/-- `ERASED` (R8). -/
def Config.erased : Byte := 0xFF
/-- `ID_LEN` (R8). -/
def Config.idLen : Nat := 3
/-- `ADDR_BYTES` (R8). -/
def Config.addrBytes : Nat := 3
/-- `MAX_ADDR_SPACE` (R8). -/
def Config.maxAddrSpace : Nat := 2 ^ 24
/-- `OP_RDID` (R8). -/
def Config.opRdid : Byte := 0x9F
/-- `OP_RDSR` (R8). -/
def Config.opRdsr : Byte := 0x05

/-- The opcode fields of a descriptor (10_state.md R41). -/
structure Opcodes where
  wren : Byte
  wrdi : Byte
  wrsr : Byte
  se   : Byte
  be   : Byte
  pp   : Byte
  read : Byte
  deriving DecidableEq, Repr, Inhabited

/-- A device descriptor (10_state.md R40). `name` is its ASCII bytes. -/
structure Descriptor where
  id           : List Byte
  name         : List Byte
  size         : Nat
  sectorSize   : Nat
  pageSize     : Nat
  maxClockHz   : Nat
  slowProgram  : Bool
  supportsBulk : Bool
  supportsLock : Bool
  bpMask       : Byte
  ops          : Opcodes
  deriving DecidableEq, Repr, Inhabited

/-- The parameters left open (00_scope.md R9). `clockCapHz = none` is `UNBOUNDED`. -/
structure Params where
  registry      : List Descriptor
  identClockHz  : Nat
  clockCapHz    : Option Nat
  maxRead       : Nat
  maxWriteFrame : Nat
  pollInterval  : Nat
  deriving DecidableEq, Repr, Inhabited

/-- One choice of the transport and the chip, consumed by one primitive. Which fields a primitive reads is said where
it does. Plain data, so that a state can hold choices; what is drawn per address or per byte index is read from
`Config.flashByte`, `Config.freeByte` and `Config.freeFlag` at index `epoch`. -/
structure Choice where
  /-- `Open` returns TransportError (60_exceptions.md R302). -/
  openFails  : Bool
  /-- `Xfer` returns TransportError (R302). -/
  xferFails  : Bool
  /-- A busy chip completes its command before this frame (44_flash_device_model.md R263). -/
  completes  : Bool
  /-- The identification code of the chip found at an `Open` (R268). -/
  id0 : Byte
  id1 : Byte
  id2 : Byte
  /-- At an `Open`, the array is what it was, which is one of its possible contents (R268). -/
  keepsArray : Bool
  /-- Index of the free memory content and free bytes this choice draws. -/
  epoch      : Nat
  /-- Drawn block-protect bits (R266, R268). -/
  bp         : Byte
  /-- Drawn write-enable latch (R257, R258, R266, R268). -/
  wel        : Bool
  /-- Drawn busy condition (R266, R268). -/
  busy       : Bool
  /-- Drawn vendor-specific status bits (R253). -/
  vendor     : Byte
  /-- The chip refuses a write-status for vendor-specific reasons (R256). -/
  refuses    : Bool
  deriving DecidableEq, Repr, Inhabited

/-- FREE VALUE (log 2): the parameters the machine was built with, before the check of 40_registry.md R141. -/
opaque Config.rawParams : Params
/-- FREE VALUE (log 9): the n-th choice of the transport and the chip (93 U1-U13). -/
opaque Config.choice : Nat → Choice
/-- FREE VALUE (log 3): content of the flash array that nothing has written, per epoch and address (R268). -/
opaque Config.flashByte : Nat → Nat → Byte
/-- FREE VALUE (log 9): an unspecified byte, per epoch and index (R260, R266, R267). -/
opaque Config.freeByte : Nat → Nat → Byte
/-- FREE VALUE (log 9): an unspecified yes or no, per epoch and index (R266). -/
opaque Config.freeFlag : Nat → Nat → Bool
/-- FREE VALUE (log 11): `PROT`, whether an address is protected under these block-protect bits (R265). DESIGN CHOICE
(log 11): one `PROT` serves every chip a run finds. -/
opaque Config.prot : Byte → Nat → Bool

end Sys2Proof
end

