-- ==== Sys2Proof/Syntax.lean ====
section
/-! DEFINITION. The instructions: one constructor per row of spec/opcode_table.json, the twelve requests on the request
port (30_encoding.md R100, R101) and the nine commands of the codec, each one SPI frame (R108, R109). -/

namespace Sys2Proof

/-- The rows of spec/opcode_table.json. -/
inductive Instr where
  /-- ATTACH, R192. -/
  | attach (vid pid : BitVec 16) (ifidx : BitVec 8)
  /-- RELEASE, R193. -/
  | release
  /-- SIZE, R194. -/
  | size
  /-- NAME, R195. -/
  | name
  /-- FREQUENCY, R196. -/
  | frequency
  /-- FLAGS, R197. -/
  | flags
  /-- STATUS, R198. -/
  | status
  /-- SET_TIMEOUT, R199; 0 is UNBOUNDED. -/
  | setTimeout (timeout : BitVec 32)
  /-- UNLOCK, R221. -/
  | unlock
  /-- ERASE, R222. -/
  | erase (offset length : BitVec 32) (bulk bestEffort : Bool)
  /-- READ, the request, R225. -/
  | read (offset length : BitVec 32)
  /-- WRITE, R227. -/
  | write (offset : BitVec 32) (data : List Byte)
  /-- RDID, R152. -/
  | rdid
  /-- RDSR, R153. -/
  | rdsr
  /-- WREN, R154. -/
  | wren
  /-- WRDI, R155. -/
  | wrdi
  /-- WRSR, R156. -/
  | wrsr (value : Byte)
  /-- SE, R157. -/
  | se (addr : FlashAddr)
  /-- BE, R158. -/
  | be
  /-- PP, R159. -/
  | pp (addr : FlashAddr) (data : List Byte)
  /-- READ_DATA, R160: `count` is how many response bytes the exchange asks. -/
  | readData (addr : FlashAddr) (count : Nat)
  deriving DecidableEq, Repr

end Sys2Proof
end

