-- ==== Sys2Proof/Machine/Wire.lean ====
section
/-! DEFINITION. What stands on the block's two encoded interfaces: the request record of 30_encoding.md R100 and the
codec's commands (R109), each one frame. -/

namespace Sys2Proof

/-- A request record (30_encoding.md R100). A field an operation does not use is ignored; absent fields are zero. -/
structure Request where
  op         : BitVec 4
  vid        : BitVec 16 := 0
  pid        : BitVec 16 := 0
  ifidx      : BitVec 8 := 0
  offset     : BitVec 32 := 0
  length     : BitVec 32 := 0
  bulk       : Bool := false
  bestEffort : Bool := false
  timeout    : BitVec 32 := 0
  data       : List Byte := []
  deriving DecidableEq, Repr

/-- The nine commands of the codec (30_encoding.md R109). -/
inductive Command where
  | rdid
  | rdsr
  | wren
  | wrdi
  | wrsr (value : Byte)
  | se (addr : FlashAddr)
  | be
  | pp (addr : FlashAddr) (data : List Byte)
  | readData (addr : FlashAddr) (count : Nat)
  deriving DecidableEq, Repr

/-- An encoded instruction: a request record on the request port, or a frame with the number of response bytes the
exchange asks. -/
inductive Encoded where
  | request (r : Request)
  | frame (w : List Byte) (n : Nat)
  deriving DecidableEq, Repr

namespace Machine

/-- The instruction a command is. -/
def commandInstr : Command → Instr
  | .rdid => .rdid
  | .rdsr => .rdsr
  | .wren => .wren
  | .wrdi => .wrdi
  | .wrsr v => .wrsr v
  | .se a => .se a
  | .be => .be
  | .pp a d => .pp a d
  | .readData a k => .readData a k

/-- The mutating commands: those that change the chip's array or status register (00_scope.md R20). -/
def commandMutates : Command → Bool
  | .wrsr _ | .se _ | .be | .pp _ _ => true
  | .rdid | .rdsr | .wren | .wrdi | .readData _ _ => false

end Machine
end Sys2Proof
end

