-- ==== Sys2Proof/WellFormed.lean ====
section
/-! DEFINITION. Which instruction terms have an encoding (`Instr.wf`), and which operands the codec's command rules
admit on a given device (`Instr.legal`). -/

namespace Sys2Proof

/-- The bound of 30_encoding.md R100 that the fields' types do not already give: a WRITE carries fewer than 2^32 bytes. A
PP without payload and a READ of no byte are frames too, though the block sends neither (R111). -/
def Instr.wf : Instr → Bool
  | .write _ data => decide (data.length < 2 ^ 32)
  | .attach .. | .release | .size | .name | .frequency | .flags | .status | .setTimeout .. | .unlock | .erase ..
  | .read .. | .rdid | .rdsr | .wren | .wrdi | .wrsr .. | .se .. | .be | .pp .. | .readData .. => true

/-- The operand conditions of the command rules on device `g` under parameters `p`: SE (41_codec.md R157), PP (R159),
READ_DATA (R160). -/
def Instr.legal (p : Params) (g : Descriptor) : Instr → Bool
  | .se addr => decide (addr.toNat % g.sectorSize = 0) && decide (addr.toNat + g.sectorSize ≤ g.size)
  | .pp addr data =>
    decide (1 ≤ data.length) && decide (data.length ≤ g.pageSize)
      && decide (addr.toNat % g.pageSize + data.length ≤ g.pageSize) && decide (addr.toNat + data.length ≤ g.size)
  | .readData addr count =>
    decide (1 ≤ count) && decide (count ≤ p.maxRead) && decide (addr.toNat + count ≤ g.size)
  | .write _ data => decide (data.length < 2 ^ 32)
  | .attach .. | .release | .size | .name | .frequency | .flags | .status | .setTimeout .. | .unlock | .erase ..
  | .read .. | .rdid | .rdsr | .wren | .wrdi | .wrsr .. | .be => true

end Sys2Proof
end

