-- ==== Sys2Proof/Decode.lean ====
section
/-! DEFINITION. Decoding and encoding of requests (30_encoding.md R100-R102) and of SPI frames (R106-R109), total on any
record and any bytes, rejecting by name; and the host's reading of the opcode table. -/

namespace Sys2Proof

/-- Why an encoded word is no instruction. -/
inductive DecodeError where
  /-- Op codes 0xC to 0xF (30_encoding.md R102). -/
  | reservedOp (op : BitVec 4)
  /-- A record whose `data` is not shorter than 2^32 bytes: no request of R100. -/
  | dataTooLong
  /-- A frame with no byte (log 25). -/
  | emptyFrame
  /-- A first byte that is none of the nine opcodes (R109, 44_flash_device_model.md R264). -/
  | unknownOpcode (op : Byte)
  /-- An opcode of the nine with bytes or a response count that are not its format (R108, log 25). -/
  | badFormat (op : Byte)
  deriving DecidableEq, Repr

/-- The opcodes a registry entry takes when it names none (10_state.md R41). -/
def defaultOpcodes : Opcodes :=
  { wren := 0x06, wrdi := 0x04, wrsr := 0x01, se := 0x20, be := 0xC7, pp := 0x02, read := 0x03 }

/-- `addr3(a) = [a[23:16], a[15:8], a[7:0]]`, most significant byte first (20_memory.md R74). -/
def addr3 (a : FlashAddr) : List Byte :=
  [a.extractLsb' 16 8, a.extractLsb' 8 8, a.extractLsb' 0 8]

/-- The address whose field is these three bytes: the inverse of `addr3`. -/
def addrOf (b2 b1 b0 : Byte) : FlashAddr := b2 ++ b1 ++ b0

/-- The bound of 30_encoding.md R100 and 10_state.md R46 that the types of a record's fields do not give. -/
def requestFits (r : Request) : Bool := decide (r.data.length < 2 ^ 32)

/-- Requests by op code (30_encoding.md R101). -/
def decodeOp (r : Request) : Except DecodeError Instr :=
  match r.op.toNat with
  | 0x0 => .ok (.attach r.vid r.pid r.ifidx)
  | 0x1 => .ok .release
  | 0x2 => .ok .size
  | 0x3 => .ok .name
  | 0x4 => .ok .frequency
  | 0x5 => .ok .flags
  | 0x6 => .ok .status
  | 0x7 => .ok (.setTimeout r.timeout)
  | 0x8 => .ok .unlock
  | 0x9 => .ok (.erase r.offset r.length r.bulk r.bestEffort)
  | 0xA => .ok (.read r.offset r.length)
  | 0xB => .ok (.write r.offset r.data)
  | _ => .error (.reservedOp r.op)

/-- A request record: within its bounds (R100), then by its op code (R101). -/
def decodeRequest (r : Request) : Except DecodeError Instr :=
  if requestFits r then decodeOp r else .error .dataTooLong

/-- The record of request `i` whose fields `i` does not use are those of `p` (R100: an operation ignores them). -/
def recordOn (p : Request) : Instr → Request
  | .attach vid pid ifidx => { p with op := 0x0, vid := vid, pid := pid, ifidx := ifidx }
  | .release => { p with op := 0x1 }
  | .size => { p with op := 0x2 }
  | .name => { p with op := 0x3 }
  | .frequency => { p with op := 0x4 }
  | .flags => { p with op := 0x5 }
  | .status => { p with op := 0x6 }
  | .setTimeout t => { p with op := 0x7, timeout := t }
  | .unlock => { p with op := 0x8 }
  | .erase o n b e => { p with op := 0x9, offset := o, length := n, bulk := b, bestEffort := e }
  | .read o n => { p with op := 0xA, offset := o, length := n }
  | .write o d => { p with op := 0xB, offset := o, data := d }
  | .rdid | .rdsr | .wren | .wrdi | .wrsr _ | .se _ | .be | .pp _ _ | .readData _ _ => p

/-- A frame's operands, once its opcode byte is read, by the formats of 30_encoding.md R108: opcodes are compared in
the order of the table R109 (distinct, 40_registry.md R141 item 9). The counts R111 says the block never sends, 0 or too
many, are still a PP or a READ to the chip. -/
def decodeFrame (ops : Opcodes) (w : List Byte) (n : Nat) : Except DecodeError Command :=
  match w with
  | [] => .error .emptyFrame
  | op :: rest =>
    if op = Config.opRdid then
      match rest with
      | [] => if n = Config.idLen then .ok .rdid else .error (.badFormat op)
      | _ => .error (.badFormat op)
    else if op = Config.opRdsr then
      match rest with
      | [] => if n = 1 then .ok .rdsr else .error (.badFormat op)
      | _ => .error (.badFormat op)
    else if op = ops.wren then
      match rest with
      | [] => if n = 0 then .ok .wren else .error (.badFormat op)
      | _ => .error (.badFormat op)
    else if op = ops.wrdi then
      match rest with
      | [] => if n = 0 then .ok .wrdi else .error (.badFormat op)
      | _ => .error (.badFormat op)
    else if op = ops.wrsr then
      match rest with
      | [v] => if n = 0 then .ok (.wrsr v) else .error (.badFormat op)
      | _ => .error (.badFormat op)
    else if op = ops.se then
      match rest with
      | [b2, b1, b0] => if n = 0 then .ok (.se (addrOf b2 b1 b0)) else .error (.badFormat op)
      | _ => .error (.badFormat op)
    else if op = ops.be then
      match rest with
      | [] => if n = 0 then .ok .be else .error (.badFormat op)
      | _ => .error (.badFormat op)
    else if op = ops.pp then
      match rest with
      | b2 :: b1 :: b0 :: data => if n = 0 then .ok (.pp (addrOf b2 b1 b0) data) else .error (.badFormat op)
      | _ => .error (.badFormat op)
    else if op = ops.read then
      match rest with
      | [b2, b1, b0] => .ok (.readData (addrOf b2 b1 b0) n)
      | _ => .error (.badFormat op)
    else .error (.unknownOpcode op)

/-- The decoder of either interface; `ops` are the opcodes the chip on the wire answers to. -/
def decode (ops : Opcodes) : Encoded → Except DecodeError Instr
  | .request r => decodeRequest r
  | .frame w n =>
    match decodeFrame ops w n with
    | .ok c => .ok (Machine.commandInstr c)
    | .error e => .error e

/-- The bytes of a command (30_encoding.md R108, 41_codec.md R152-R160). -/
def encodeFrame (ops : Opcodes) : Command → List Byte
  | .rdid => [Config.opRdid]
  | .rdsr => [Config.opRdsr]
  | .wren => [ops.wren]
  | .wrdi => [ops.wrdi]
  | .wrsr v => [ops.wrsr, v]
  | .se a => ops.se :: addr3 a
  | .be => [ops.be]
  | .pp a d => ops.pp :: (addr3 a ++ d)
  | .readData a _ => ops.read :: addr3 a

/-- The response bytes `n` a command expects (30_encoding.md R108). -/
def responseLength : Command → Nat
  | .rdid => Config.idLen
  | .rdsr => 1
  | .wren | .wrdi | .wrsr _ | .se _ | .be | .pp _ _ => 0
  | .readData _ k => k

/-- The words of an instruction: a request's record with its unused fields absent, or a command's frame. -/
def encode (ops : Opcodes) : Instr → Encoded
  | .attach vid pid ifidx => .request { op := 0x0, vid := vid, pid := pid, ifidx := ifidx }
  | .release => .request { op := 0x1 }
  | .size => .request { op := 0x2 }
  | .name => .request { op := 0x3 }
  | .frequency => .request { op := 0x4 }
  | .flags => .request { op := 0x5 }
  | .status => .request { op := 0x6 }
  | .setTimeout t => .request { op := 0x7, timeout := t }
  | .unlock => .request { op := 0x8 }
  | .erase o n b e => .request { op := 0x9, offset := o, length := n, bulk := b, bestEffort := e }
  | .read o n => .request { op := 0xA, offset := o, length := n }
  | .write o d => .request { op := 0xB, offset := o, data := d }
  | .rdid => .frame (encodeFrame ops .rdid) (responseLength .rdid)
  | .rdsr => .frame (encodeFrame ops .rdsr) (responseLength .rdsr)
  | .wren => .frame (encodeFrame ops .wren) (responseLength .wren)
  | .wrdi => .frame (encodeFrame ops .wrdi) (responseLength .wrdi)
  | .wrsr v => .frame (encodeFrame ops (.wrsr v)) (responseLength (.wrsr v))
  | .se a => .frame (encodeFrame ops (.se a)) (responseLength (.se a))
  | .be => .frame (encodeFrame ops .be) (responseLength .be)
  | .pp a d => .frame (encodeFrame ops (.pp a d)) (responseLength (.pp a d))
  | .readData a k => .frame (encodeFrame ops (.readData a k)) (responseLength (.readData a k))

/-- The first `k` bytes of a table word: the table's bits 7..0 are the first byte on the wire. -/
def tableBytes (w : Nat) : Nat → List Byte
  | 0 => []
  | k + 1 => BitVec.ofNat 8 w :: tableBytes (w / 256) k

/-- How many bytes a frame with this default opcode has (its shortest form) and how many response bytes it asks. -/
def tableFrameShape (op : Byte) : Option (Nat × Nat) :=
  if op = Config.opRdid then some (1, Config.idLen)
  else if op = Config.opRdsr then some (1, 1)
  else if op = defaultOpcodes.wren then some (1, 0)
  else if op = defaultOpcodes.wrdi then some (1, 0)
  else if op = defaultOpcodes.wrsr then some (2, 0)
  else if op = defaultOpcodes.se then some (4, 0)
  else if op = defaultOpcodes.be then some (1, 0)
  else if op = defaultOpcodes.pp then some (5, 0)
  else if op = defaultOpcodes.read then some (4, 1)
  else none

/-- A word of spec/opcode_table.json as it stands on its interface (log 12). A word of at least eight bits whose first
byte is one of the nine default opcodes is a frame on the wire; every other word is a request whose op field is bits
3:0. Bits above `nbits` are zero. -/
def tableEncoded (nbits w : Nat) : Encoded :=
  let v := w % 2 ^ nbits
  match (if 8 ≤ nbits then tableFrameShape (BitVec.ofNat 8 v) else none) with
  | some (len, n) => .frame (tableBytes v len) n
  | none => .request { op := BitVec.ofNat 4 v }

/-- The host's reading of the table: the decoder's answer on the table's word. -/
def decodeTableWord (nbits w : Nat) : Option Instr :=
  match decode defaultOpcodes (tableEncoded nbits w) with
  | .ok i => some i
  | .error _ => none

end Sys2Proof
end

