-- ==== Sys2Proof/Machine/Registry.lean ====
section
/-! DEFINITION. The device registry: well-formedness of the parameters (40_registry.md R141), the lookup (R142), the
descriptor clock (42_session_control.md R192), and the parameters the machine is built with. -/

namespace Sys2Proof.Machine

/-- `n` is a power of two, at most `MAX_ADDR_SPACE`. -/
def powerOfTwo (n : Nat) : Bool := (List.range 25).any fun k => decide (n = 2 ^ k)

/-- The nine opcode bytes of a descriptor, in the order of 30_encoding.md R109. -/
def opcodeList (o : Opcodes) : List Byte :=
  [Config.opRdid, Config.opRdsr, o.wren, o.wrdi, o.wrsr, o.se, o.be, o.pp, o.read]

/-- 40_registry.md R141 item 9: nine pairwise distinct opcode bytes. -/
def opcodesWf (o : Opcodes) : Bool := decide (opcodeList o).Nodup

/-- 40_registry.md R141, every item about one entry (items 1, 3 to 10). -/
def descriptorWf (maxWriteFrame : Nat) (d : Descriptor) : Bool :=
  decide (d.id.length = Config.idLen)
    && !(d.id.all (· == 0x00)) && !(d.id.all (· == 0xFF))
    && decide (0 < d.size) && decide (d.size ≤ Config.maxAddrSpace)
    && powerOfTwo d.sectorSize && powerOfTwo d.pageSize && decide (d.pageSize ≤ d.sectorSize)
    && decide (d.size % d.sectorSize = 0)
    && decide (1 + Config.addrBytes + d.pageSize ≤ maxWriteFrame)
    && decide (0 < d.maxClockHz)
    && decide (d.bpMask &&& 0x01 = 0)
    && opcodesWf d.ops
    && !d.name.isEmpty && d.name.all (fun c => decide (0x20 ≤ c.toNat ∧ c.toNat ≤ 0x7E))

/-- 40_registry.md R141 with the bounds of 00_scope.md R9. -/
def paramsWf (p : Params) : Bool :=
  decide (p.registry.map Descriptor.id).Nodup
    && p.registry.all (descriptorWf p.maxWriteFrame)
    && decide (0 < p.identClockHz) && (match p.clockCapHz with | none => true | some c => decide (0 < c))
    && decide (1 ≤ p.maxRead) && decide (5 ≤ p.maxWriteFrame)

/-- Parameters with no device at all. -/
def emptyParams : Params :=
  { registry := [], identClockHz := 1, clockCapHz := none, maxRead := 1, maxWriteFrame := 5, pollInterval := 0 }

/-- The parameters of the machine (log 2): any value that passes the check of R141, and no other. A machine whose
parameters fail it is not built, so what stands in their place is never observed. -/
def builtParams : Params := if paramsWf Config.rawParams then Config.rawParams else emptyParams

/-- `resolve(code)` (40_registry.md R142); `none` is `NotFound`. -/
def resolve (registry : List Descriptor) (code : List Byte) : Option Descriptor :=
  match registry with
  | [] => none
  | e :: es => if e.id = code then some e else resolve es code

/-- The clock ATTACH sets after resolve (42_session_control.md R192). -/
def deviceClock (p : Params) (d : Descriptor) : Nat :=
  match p.clockCapHz with
  | none => d.maxClockHz
  | some cap => min d.maxClockHz cap

end Sys2Proof.Machine
end

