-- ==== Sys2Proof/Machine/State.lean ====
section
/-! DEFINITION. The state: everything 10_state.md R31-R48 gives the block, everything 44_flash_device_model.md R250
gives the chip, and the model's own bookkeeping of the caller, the transport and the free choices. -/

namespace Sys2Proof.Machine

/-- The session sequencer (10_state.md R31). -/
inductive Seq where
  | unattached | identifying | ready | reading | erasing | programming | released
  deriving DecidableEq, Repr

/-- The transport handle (10_state.md R34). -/
inductive Handle where
  | none | open
  deriving DecidableEq, Repr

/-- `lock_status` (10_state.md R36). -/
inductive LockStatus where
  | unknown | locked | unlocked
  deriving DecidableEq, Repr

/-- The operations made of mutating commands (43_session_storage.md R221, R222, R224, R227). -/
inductive Job where
  | unlock | eraseSectors | eraseBulk | write
  deriving DecidableEq, Repr

/-- The stage of a TransportError (60_exceptions.md R288). -/
inductive Stage where
  | open | exchange
  deriving DecidableEq, Repr

/-- The reason of a RangeError (R288). -/
inductive RangeReason where
  | bounds | alignment
  deriving DecidableEq, Repr

/-- The reason of an InvalidRequest (R288). -/
inductive InvalidReason where
  | wrongState | reservedOp
  deriving DecidableEq, Repr

/-- The capability an UnsupportedOperation names (R288). -/
inductive Capability where
  | lock
  deriving DecidableEq, Repr

/-- An error with its info record (60_exceptions.md R288). `committed` is present for WRITE only. -/
inductive ErrorRecord where
  | unknownDevice (id : List Byte)
  | transportError (stage : Stage) (committed : Option Nat)
  | rangeError (reason : RangeReason)
  | lockedError (status : Byte)
  | timeout (status : Byte) (committed : Option Nat)
  | unsupportedOperation (capability : Capability)
  | invalidRequest (reason : InvalidReason)
  deriving DecidableEq, Repr

/-- The value of a success (30_encoding.md R103). -/
inductive Value where
  | empty
  | size (bytes : Nat)
  | name (text : List Byte)
  | clock (hz : Option Nat)
  | flags (f : BitVec 3)
  | status (s : Byte)
  | range (lo hi : Nat)
  | data (bytes : List Byte)
  | count (n : Nat)
  deriving DecidableEq, Repr

/-- A response (30_encoding.md R103). -/
inductive Response where
  | ok (v : Value)
  | err (e : ErrorRecord)
  deriving DecidableEq, Repr

/-- Which step of which operation comes next (log 4). -/
inductive Phase where
  /-- No operation in flight. -/
  | idle
  /-- ATTACH: `Open`. -/
  | openLink
  /-- ATTACH: `SetClock(IDENT_CLOCK_HZ)`. -/
  | identClock
  /-- ATTACH: the RDID exchange. -/
  | identify
  /-- ATTACH: `SetClock` of the device found. -/
  | deviceClock (d : Descriptor)
  /-- ATTACH: `Close`, then raise `e`. -/
  | closeLink (e : ErrorRecord)
  /-- A status read of the WaitReady before the first mutating command (41_codec.md R168). -/
  | waitIdle (j : Job)
  /-- The WREN of a mutating command (R167). -/
  | writeEnable (j : Job)
  /-- The mutating frame (R167). -/
  | mutate (j : Job)
  /-- A status read of the WaitReady after a mutating frame (R166). -/
  | waitDone (j : Job)
  /-- READ: the next read-data exchange (43_session_storage.md R225). -/
  | readData
  deriving DecidableEq, Repr

/-- The request registers (10_state.md R46); `vid`, `pid`, `ifidx` are `req_sel`. `timeout = none` is `UNBOUNDED`. -/
structure ReqRegs where
  op         : BitVec 4
  vid        : BitVec 16
  pid        : BitVec 16
  ifidx      : BitVec 8
  offset     : BitVec 32
  length     : BitVec 32
  bulk       : Bool
  bestEffort : Bool
  timeout    : Option (BitVec 32)
  data       : List Byte
  deriving DecidableEq, Repr

/-- The attached chip (44_flash_device_model.md R250). `mem` lists the bytes that differ from `Config.flashByte epoch`.
`geom` is the descriptor that truly describes the chip, none where the registry knows no such chip (log 5). -/
structure Chip where
  id    : List Byte
  mem   : List Host.Cell
  epoch : Nat
  bp    : Byte
  wel   : Bool
  busy  : Bool
  geom  : Option Descriptor
  deriving DecidableEq, Repr

/-- One primitive on the transport port (30_encoding.md R104): `reply = none` is TransportError. An exchange keeps the
command beside the bytes sent for it. -/
inductive WireEvent where
  | open (vid pid : BitVec 16) (ifidx : BitVec 8) (ok : Bool)
  | setClock (hz : Nat)
  | xfer (cmd : Command) (w : List Byte) (n : Nat) (reply : Option (List Byte))
  | close
  deriving DecidableEq, Repr

/-- What the outside presents (log 6): a request (R100), the creation of a new block instance (70_reset_and_hazards.md
R320), or a frame driven to the chip directly (95_test_vectors.md section 13). -/
inductive Input where
  | request (r : Request)
  | newBlock
  | frame (w : List Byte) (n : Nat)
  deriving DecidableEq, Repr

/-- Why the machine stops. -/
inductive Fault where
  /-- Raised by a session operation in a state that holds no descriptor, where 10_state.md R35 and R190 leave it no
  meaning. Safe: no run from reset reaches such a state (log 10). -/
  | noDescriptor
  deriving DecidableEq, Repr

/-- Why an input has no meaning. -/
inductive Refusal where
  /-- Raised by an arm of exec for an instruction that has no meaning yet. Safe. -/
  | notModelled (mnemonic : String)
  /-- Raised by step on a frame driven to the chip from outside while the block holds the link: two owners of one chip,
  which 93_implementation_defined.md U16 has a model refuse (R297, R328). Safe. -/
  | sharedChip
  /-- Raised by step on a record with 2^32 or more bytes of data, which is no request: 30_encoding.md R100 bounds the
  field. Safe. -/
  | malformedRequest
  /-- Raised by `instantiate` on parameters that fail 40_registry.md R141, which U11 has a model refuse. Safe. -/
  | illFormedParameters
  deriving DecidableEq, Repr

structure State where
  /-- The parameters of 00_scope.md R9, `REGISTRY` among them; no step writes them. -/
  params          : Params
  seq             : Seq
  handle          : Handle
  desc            : Option Descriptor
  lockStatus      : LockStatus
  lastStatus      : Option Byte
  clockHz         : Option Nat
  /-- `none` is `UNBOUNDED` (R39). -/
  timeoutPolls    : Option Nat
  req             : ReqRegs
  /-- The working registers (10_state.md R47). -/
  addr            : Nat
  done            : Nat
  polls           : Nat
  cur             : Byte
  acc             : List Byte
  /-- The response register (R48) and whether it is still to be delivered (R105). -/
  response        : Option Response
  responsePending : Bool
  /-- The model's own: the position in the operation, and whether a mutating frame has been passed to Xfer (R37). -/
  phase           : Phase
  mutated         : Bool
  chip            : Chip
  /-- The record standing on the request port (30_encoding.md R100), kept after it is taken (log 16). -/
  port            : Request
  /-- The model's own: caller, transport history, bench, free choices (log 6 to 9). -/
  inbox           : List Input
  delivered       : List Response
  wire            : List WireEvent
  probeReply      : List Byte
  oracle          : List Choice
  draws           : Nat
  deriving DecidableEq, Repr

/-- A request register file with nothing latched (log 1). -/
def ReqRegs.blank : ReqRegs :=
  { op := 0, vid := 0, pid := 0, ifidx := 0, offset := 0, length := 0, bulk := false, bestEffort := false,
    timeout := none, data := [] }

/-- A chip nothing is known of (44_flash_device_model.md R268): every part of it is drawn. -/
def Chip.drawn (registry : List Descriptor) (c : Choice) : Chip :=
  { id := [c.id0, c.id1, c.id2], mem := [], epoch := c.epoch, bp := c.bp, wel := c.wel, busy := c.busy,
    geom := resolve registry [c.id0, c.id1, c.id2] }

/-- Right after reset (10_state.md R51, 70_reset_and_hazards.md R320). -/
def State.reset : State :=
  { params := builtParams
    seq := .unattached
    handle := .none
    desc := none
    lockStatus := .unknown
    lastStatus := none
    clockHz := none
    timeoutPolls := none
    req := ReqRegs.blank
    addr := 0
    done := 0
    polls := 0
    cur := 0
    acc := []
    response := none
    responsePending := false
    phase := .idle
    mutated := false
    chip := Chip.drawn builtParams.registry (Config.choice 0)
    port := { op := 0 }
    inbox := []
    delivered := []
    wire := []
    probeReply := []
    oracle := []
    draws := 1 }

end Sys2Proof.Machine
end

