-- ==== Sys2Proof/Machine/Flags.lean ====
section
/-! DEFINITION. The decoded status flags (10_state.md R43, R44; 41_codec.md R161-R163), the FLAGS value and the response
codes. -/

namespace Sys2Proof.Machine

/-- `busy(s) = s[0]` (41_codec.md R161). -/
def statusBusy (s : Byte) : Bool := s.getLsbD 0

/-- `protected(s) = (s & desc.bp_mask) != 0` (41_codec.md R162). -/
def statusProtected (mask s : Byte) : Bool := decide (s &&& mask ≠ 0)

/-- `lock_status` after a status read (10_state.md R45). -/
def lockOf (mask s : Byte) : LockStatus := if statusProtected mask s then .locked else .unlocked

/-- The write-status operand of UNLOCK: `s & ~bp_mask` (41_codec.md R156). -/
def unprotect (mask s : Byte) : Byte := s &&& ~~~mask

/-- The value FLAGS returns (42_session_control.md R197). -/
def flagsValue (d : Descriptor) : BitVec 3 :=
  BitVec.ofNat 3 (d.supportsBulk.toNat ||| (d.supportsLock.toNat <<< 1) ||| (d.slowProgram.toNat <<< 2))

/-- The codes of the error kinds (60_exceptions.md R280). -/
def errorCode : ErrorRecord → BitVec 3
  | .unknownDevice _ => 1
  | .transportError _ _ => 2
  | .rangeError _ => 3
  | .lockedError _ => 4
  | .timeout _ _ => 5
  | .unsupportedOperation _ => 6
  | .invalidRequest _ => 7

/-- The `code` of a response (30_encoding.md R103). -/
def responseCode : Response → BitVec 3
  | .ok _ => 0
  | .err e => errorCode e

end Sys2Proof.Machine
end

