-- ==== Sys2Proof/Machine/Memory.lean ====
section
/-! DEFINITION. The chip's byte array (20_memory.md R70, 00_scope.md R16): a list of address and byte pairs, addresses
strictly rising, no entry equal to what an unlisted address reads as. `bg` is what an unlisted address reads as. -/

namespace Sys2Proof.Machine

/-- What an address nothing has written reads as: the free content of the chip's epoch (R268, log 3). -/
def unlistedByte (epoch a : Nat) : Byte := Config.flashByte epoch a

/-- The canonical form. -/
abbrev memWf (bg : Nat → Byte) (m : List Host.Cell) : Prop :=
  (m.map Prod.fst).Pairwise (· < ·) ∧ ∀ c ∈ m, c.2 ≠ bg c.1

/-- One byte of the array. -/
def memRead (bg : Nat → Byte) (m : List Host.Cell) (a : Nat) : Byte :=
  match m with
  | [] => bg a
  | (k, b) :: t => if k = a then b else memRead bg t a

/-- Writes one byte, keeping the canonical form. -/
def memWrite (bg : Nat → Byte) (m : List Host.Cell) (a : Nat) (b : Byte) : List Host.Cell :=
  match m with
  | [] => if b = bg a then [] else [(a, b)]
  | (k, v) :: t =>
    if a < k then (if b = bg a then (k, v) :: t else (a, b) :: (k, v) :: t)
    else if a = k then (if b = bg a then t else (a, b) :: t)
    else (k, v) :: memWrite bg t a b

/-- `MemWrite(lo, n, v)` (R16) with `v` given address by address: every `a` in `[lo, lo + n)` becomes `f a`. -/
def memUpdate (bg : Nat → Byte) (m : List Host.Cell) (lo : Nat) (f : Nat → Byte) : Nat → List Host.Cell
  | 0 => m
  | n + 1 => memWrite bg (memUpdate bg m lo f n) (lo + n) (f (lo + n))

end Sys2Proof.Machine
end

