-- ==== Sys2Proof/Machine/Operands.lean ====
section
/-! DEFINITION. The operand arithmetic of the storage operations, exact in the naturals (00_scope.md R11). -/

namespace Sys2Proof.Machine

/-- `floor_to(a, S)` (00_scope.md R11). -/
def floorTo (a S : Nat) : Nat := a / S * S

/-- `ceil_to(a, S)` (00_scope.md R11). -/
def ceilTo (a S : Nat) : Nat := (a + S - 1) / S * S

/-- The range check of 20_memory.md R73. -/
def inRange (size o n : Nat) : Bool := decide (o + n ≤ size)

/-- The alignment check of ERASE (20_memory.md R77). -/
def sectorAligned (S o n : Nat) : Bool := decide (o % S = 0) && decide (n % S = 0)

/-- `EffectiveRange(o, n, best_effort)` (43_session_storage.md R223). -/
def effectiveRange (S o n : Nat) (bestEffort : Bool) : Nat × Nat :=
  if n = 0 then (o, o)
  else if bestEffort then (floorTo o S, ceilTo (o + n) S)
  else (o, o + n)

/-- `UseBulk(o, n, bulk)` (43_session_storage.md R224), on the requested range. -/
def useBulk (d : Descriptor) (o n : Nat) (bulk : Bool) : Bool :=
  bulk && d.supportsBulk && decide (o = 0) && decide (n = d.size)

/-- The length of the next chunk of a WRITE of `n` bytes with `done` of them written (43_session_storage.md R228). -/
def chunkLength (P addr n done : Nat) : Nat := min (n - done) (P - addr % P)

/-- The bytes of that chunk: `data[done .. done + k)`. -/
def chunkData (data : List Byte) (done k : Nat) : List Byte := (data.drop done).take k

/-- The size of the next batch of a READ of `n` bytes with `got` of them read (43_session_storage.md R225). -/
def batchLength (maxRead n got : Nat) : Nat := min (n - got) maxRead

/-- The 24-bit address field of a flash address (30_encoding.md R107). -/
def addrField (a : Nat) : FlashAddr := BitVec.ofNat 24 a

/-- The effective range of the ERASE in the request registers. -/
def eraseRange (d : Descriptor) (r : ReqRegs) : Nat × Nat :=
  effectiveRange d.sectorSize r.offset.toNat r.length.toNat r.bestEffort

/-- The chunk the WRITE in the request registers sends next. -/
def writeChunk (d : Descriptor) (s : State) : Nat :=
  chunkLength d.pageSize s.addr s.req.data.length s.done

end Sys2Proof.Machine
end

