-- ==== Sys2Proof/Machine/Chip.lean ====
section
/-! DEFINITION. The attached flash chip (44_flash_device_model.md): what a frame does to it and what it answers. `c` is
the choice this exchange draws from. -/

namespace Sys2Proof.Machine

/-- What an unlisted address of this chip reads as. -/
def chipBackground (ch : Chip) : Nat → Byte := unlistedByte ch.epoch

/-- One byte of the chip's array. -/
def chipByte (ch : Chip) (a : Nat) : Byte := memRead (chipBackground ch) ch.mem a

/-- The array with every byte of `[lo, lo + n)` replaced. -/
def chipStore (ch : Chip) (lo n : Nat) (f : Nat → Byte) : Chip :=
  { ch with mem := memUpdate (chipBackground ch) ch.mem lo f n }

/-- The internal step (R251, R263): a busy chip may complete, which clears the latch (R262). -/
def chipSettle (c : Choice) (ch : Chip) : Chip :=
  if ch.busy && c.completes then { ch with busy := false, wel := false } else ch

/-- The chip state where the spec leaves all of it open (R250, R264). -/
def chipUnspecified (c : Choice) (ch : Chip) : Chip :=
  { ch with id := [c.id0, c.id1, c.id2], mem := [], epoch := c.epoch, bp := c.bp, wel := c.wel, busy := c.busy }

/-- The protect bits in effect: `bp & bp_mask` (R250). -/
def protectBits (g : Descriptor) (ch : Chip) : Byte := ch.bp &&& g.bpMask

/-- Address `a` is in `PROT(bp & bp_mask)`, with `PROT(0)` empty (R265). -/
def protectedByte (g : Descriptor) (ch : Chip) (a : Nat) : Bool :=
  decide (protectBits g ch ≠ 0) && Config.prot (protectBits g ch) a

/-- Some byte of `[lo, lo + n)` is protected. -/
def protectedRange (g : Descriptor) (ch : Chip) (lo n : Nat) : Bool :=
  decide (protectBits g ch ≠ 0) && (List.range n).any fun i => protectedByte g ch (lo + i)

/-- The chip after an SE or PP, received whole or not, to which the spec gives no other effect: all of it drawn but the protected bytes of its
array, which no SE, BE or PP changes (R265). DESIGN CHOICE (log 13), safe. -/
def chipUnprotectedOpen (c : Choice) (g : Descriptor) (ch : Chip) : Chip :=
  chipStore (chipUnspecified c ch) 0 g.size fun t =>
    if protectedByte g ch t then chipByte ch t else chipByte (chipUnspecified c ch) t

/-- WRSR on an idle chip (R256, R261). A chip that refuses the write keeps `bp`, and its latch and busy are drawn. -/
def chipWrsr (c : Choice) (g : Descriptor) (v : Byte) (ch : Chip) : Chip :=
  if ch.wel then
    if c.refuses then { ch with wel := c.wel, busy := c.busy }
    else { ch with bp := v &&& g.bpMask, busy := true }
  else ch

/-- SE on an idle chip (R257, R261). For a sector outside the array only R265 speaks (log 13). -/
def chipSe (c : Choice) (g : Descriptor) (a : Nat) (ch : Chip) : Chip :=
  if ch.wel then
    if floorTo a g.sectorSize + g.sectorSize ≤ g.size then
      if protectedRange g ch (floorTo a g.sectorSize) g.sectorSize then { ch with wel := c.wel }
      else { chipStore ch (floorTo a g.sectorSize) g.sectorSize (fun _ => Config.erased) with busy := true }
    else chipUnprotectedOpen c g ch
  else ch

/-- BE on an idle chip (R258, R261). -/
def chipBe (c : Choice) (g : Descriptor) (ch : Chip) : Chip :=
  if ch.wel then
    if protectBits g ch ≠ 0 then { ch with wel := c.wel }
    else { chipStore ch 0 g.size (fun _ => Config.erased) with busy := true }
  else ch

/-- Which payload byte of a page program at `a` lands on address `t` of the page (R259): the `i` with
`t = base + ((a mod P) + i) mod P`. -/
def pageIndex (P a t : Nat) : Nat := (t % P + P - a % P) % P

/-- The byte at `t` after a page program of `data` at `a`: the AND of R259, or the old byte where no payload lands. -/
def programmedByte (P a : Nat) (data : List Byte) (ch : Chip) (t : Nat) : Byte :=
  match data[pageIndex P a t]? with
  | some d => chipByte ch t &&& d
  | none => chipByte ch t

/-- A drawn byte whose set bits were set before (R259, R266). -/
def clearedByte (c : Choice) (ch : Chip) (t : Nat) : Byte := chipByte ch t &&& Config.freeByte c.epoch t

/-- A byte of the page of an oversize payload: drawn (R259, U4), unless it is protected (R265). -/
def oversizedByte (c : Choice) (g : Descriptor) (ch : Chip) (t : Nat) : Byte :=
  if protectedByte g ch t then chipByte ch t else clearedByte c ch t

/-- PP on an idle chip (R259, R261). An oversize payload leaves the page's unprotected bytes drawn (U4, R265, log 18); of
an empty one, or a page outside the array, only R265 speaks (log 13). -/
def chipPp (c : Choice) (g : Descriptor) (a : Nat) (data : List Byte) (ch : Chip) : Chip :=
  if ch.wel then
    if floorTo a g.pageSize + g.pageSize ≤ g.size ∧ data ≠ [] then
      if data.length ≤ g.pageSize then
        if protectedRange g ch (floorTo a g.pageSize) g.pageSize then { ch with wel := c.wel }
        else { chipStore ch (floorTo a g.pageSize) g.pageSize (programmedByte g.pageSize a data ch) with busy := true }
      else
        { chipStore ch (floorTo a g.pageSize) g.pageSize (oversizedByte c g ch) with wel := c.wel, busy := c.busy }
    else chipUnprotectedOpen c g ch
  else ch

/-- The chip after a frame it received whole, by its own descriptor `g` (R252-R261, R264, R267). -/
def chipCommand (c : Choice) (g : Descriptor) (cmd : Command) (ch : Chip) : Chip :=
  match cmd with
  | .rdid | .rdsr | .readData _ _ => ch
  | .wren => if ch.busy then chipUnspecified c ch else { ch with wel := true }
  | .wrdi => if ch.busy then chipUnspecified c ch else { ch with wel := false }
  | .wrsr v => if ch.busy then chipUnspecified c ch else chipWrsr c g v ch
  | .se a => if ch.busy then chipUnspecified c ch else chipSe c g a.toNat ch
  | .be => if ch.busy then chipUnspecified c ch else chipBe c g ch
  | .pp a d => if ch.busy then chipUnspecified c ch else chipPp c g a.toNat d ch

/-- The status byte (R253): bit 0 busy, the protect bits, every other bit drawn. -/
def statusByte (c : Choice) (g : Descriptor) (ch : Chip) : Byte :=
  (if ch.busy then 1 else 0) ||| (ch.bp &&& g.bpMask) ||| (c.vendor &&& ~~~(g.bpMask ||| 1))

/-- The `i`-th response byte of a frame received whole (R252, R253, R260, R267). -/
def replyByte (c : Choice) (g : Descriptor) (cmd : Command) (ch : Chip) (i : Nat) : Byte :=
  match cmd with
  | .rdid => if ch.busy then Config.freeByte c.epoch i else ch.id.getD i 0
  | .rdsr => statusByte c g ch
  | .readData a _ =>
    if ch.busy then Config.freeByte c.epoch i
    else if a.toNat + i < g.size then chipByte ch (a.toNat + i)
    else Config.freeByte c.epoch i
  | .wren | .wrdi | .wrsr _ | .se _ | .be | .pp _ _ => Config.freeByte c.epoch i

/-- The chip after any frame received whole. A chip the registry does not describe (`geom` none) answers RDID, which
needs no geometry; every other command on it is unspecified (R250, U10). -/
def chipReceives (c : Choice) (cmd : Command) (ch : Chip) : Chip :=
  match ch.geom with
  | some g => chipCommand c g cmd ch
  | none =>
    match cmd with
    | .rdid => ch
    | .rdsr | .wren | .wrdi | .wrsr _ | .se _ | .be | .pp _ _ | .readData _ _ => chipUnspecified c ch

/-- The `i`-th response byte of that frame. -/
def chipAnswers (c : Choice) (cmd : Command) (ch : Chip) (i : Nat) : Byte :=
  match ch.geom with
  | some g => replyByte c g cmd ch i
  | none =>
    match cmd with
    | .rdid => if ch.busy then Config.freeByte c.epoch i else ch.id.getD i 0
    | .rdsr | .wren | .wrdi | .wrsr _ | .se _ | .be | .pp _ _ | .readData _ _ => Config.freeByte c.epoch i

/-- A byte of a sector or chip whose erase failed in transit (R266): erased, or some of its set bits cleared. -/
def tornErase (c : Choice) (ch : Chip) (t : Nat) : Byte :=
  if Config.freeFlag c.epoch t then Config.erased else clearedByte c ch t

/-- An idle chip after a frame whose exchange failed, by its own descriptor (R266). Where the addressed sector or page is
outside the array only R265 speaks (log 13). -/
def chipTorn (c : Choice) (g : Descriptor) (cmd : Command) (ch : Chip) : Chip :=
  match cmd with
  | .rdid | .rdsr | .readData _ _ => ch
  | .wren | .wrdi => { ch with wel := c.wel }
  | .wrsr _ => { ch with bp := c.bp, wel := c.wel, busy := c.busy }
  | .se a =>
    if floorTo a.toNat g.sectorSize + g.sectorSize ≤ g.size then
      { chipStore ch (floorTo a.toNat g.sectorSize) g.sectorSize (tornErase c ch) with wel := c.wel, busy := c.busy }
    else chipUnprotectedOpen c g ch
  | .be => { chipStore ch 0 g.size (tornErase c ch) with wel := c.wel, busy := c.busy }
  | .pp a _ =>
    if floorTo a.toNat g.pageSize + g.pageSize ≤ g.size then
      { chipStore ch (floorTo a.toNat g.pageSize) g.pageSize (clearedByte c ch) with wel := c.wel, busy := c.busy }
    else chipUnprotectedOpen c g ch

/-- The chip after a frame whose exchange failed (R266). A frame other than RDID, RDSR and READ_DATA that may have
reached a busy chip, or a chip no descriptor describes, leaves it unspecified (R264, R250). -/
def chipFails (c : Choice) (cmd : Command) (ch : Chip) : Chip :=
  match cmd with
  | .rdid | .rdsr | .readData _ _ => ch
  | .wren | .wrdi | .wrsr _ | .se _ | .be | .pp _ _ =>
    match ch.geom with
    | some g => if ch.busy then chipUnspecified c ch else chipTorn c g cmd ch
    | none => chipUnspecified c ch

end Sys2Proof.Machine
end

