-- ==== Sys2Proof/Machine/Ops.lean ====
section
/-! DEFINITION. The named operations every meaning is made of: presenting a request (30_encoding.md R105,
42_session_control.md R190), answering it, the one error exit (60_exceptions.md R290), one exchange on the transport
port (R104, R302), a frame driven to the chip directly, and the creation of a block instance (70_reset_and_hazards.md
R320). -/

namespace Sys2Proof.Machine

/-- What a step of this machine answers. -/
abbrev Outcome := Host.Outcome State Fault Refusal

/-! ### The request port -/

/-- The states in which a request may be accepted (R105). -/
def seqAccepts : Seq → Bool
  | .unattached | .ready | .released => true
  | .identifying | .reading | .erasing | .programming => false

/-- A request is accepted only then and with no response pending delivery (R105). -/
def accepting (s : State) : Bool := seqAccepts s.seq && !s.responsePending

/-- The record request `i` is presented with: the port's, which holds `i`'s fields and those `i` does not use. -/
def portRecord (i : Instr) (s : State) : Request := recordOn s.port i

/-- The request registers latched from a record, every field of it (10_state.md R46). -/
def latched (r : Request) : ReqRegs :=
  { op := r.op, vid := r.vid, pid := r.pid, ifidx := r.ifidx, offset := r.offset, length := r.length, bulk := r.bulk,
    bestEffort := r.bestEffort, timeout := if r.timeout = 0 then none else some r.timeout, data := r.data }

/-- Acceptance: the registers are latched, the response register is emptied (R46, R48), and no mutating frame of this
operation has been sent. -/
def accept (r : Request) (s : State) : State :=
  { s with req := latched r, response := none, responsePending := false, mutated := false }

/-- A request that is not accepted now stays on the port (R105: "it is held, not refused"). -/
def hold (r : Request) (s : State) : State := { s with inbox := .request r :: s.inbox }

/-! ### Responses -/

/-- The operation ends: the response register is written (R48, R333). DESIGN CHOICE (log 26): the working registers, which
R47 leaves unspecified from here on, keep what the operation left in them. -/
def respond (r : Response) (s : State) : State :=
  { s with phase := .idle, response := some r, responsePending := true }

/-- Where `seq` stands after an operation that ends in success (10_state.md R32). -/
def seqAfterSuccess : Seq → Seq
  | .reading | .erasing | .programming => .ready
  | .unattached => .unattached
  | .identifying => .identifying
  | .ready => .ready
  | .released => .released

/-- `return Ok(v)` (00_scope.md R17). -/
def succeed (v : Value) (s : State) : State := respond (.ok v) { s with seq := seqAfterSuccess s.seq }

/-- Where an error leaves `seq` (60_exceptions.md R290): a failed ATTACH in `Unattached`, another operation in
`Ready`; a request refused before it began leaves it where it was. -/
def seqAfterError : Seq → Seq
  | .identifying => .unattached
  | .reading | .erasing | .programming => .ready
  | .unattached => .unattached
  | .ready => .ready
  | .released => .released

/-- `last_status` after an error (R290): unknown after a Timeout, and after a TransportError on or after the
operation's first mutating frame. -/
def statusAfterError (e : ErrorRecord) (s : State) : Option Byte :=
  match e with
  | .timeout _ _ => none
  | .transportError _ _ => if s.mutated then none else s.lastStatus
  | .unknownDevice _ | .rangeError _ | .lockedError _ | .unsupportedOperation _ | .invalidRequest _ => s.lastStatus

/-- `raise E(info)`: the one error exit (00_scope.md R17, 60_exceptions.md R290). -/
def raiseError (e : ErrorRecord) (s : State) : State :=
  respond (.err e) { s with seq := seqAfterError s.seq, lastStatus := statusAfterError e s }

/-- An InvalidRequest changes no state and sends no frame (60_exceptions.md R287). -/
def refuseRequest (why : InvalidReason) (s : State) : State := respond (.err (.invalidRequest why)) s

/-- Presents request `r` to the block: held while an operation is in flight or a response is pending, answered
`WrongState` where `admits` does not list the state (42_session_control.md R190), else latched and begun. -/
def present (r : Request) (admits : Seq → Bool) (begin : State → Outcome) (s : State) : Outcome :=
  if accepting s then
    if admits s.seq then begin (accept r s) else .next (refuseRequest .wrongState s)
  else .next (hold r s)

/-- Runs `f` on the session's descriptor. -/
def withDesc (f : Descriptor → State → State) (s : State) : Outcome :=
  match s.desc with
  | some d => .next (f d s)
  | none => .fault .noDescriptor

/-! ### The transport port -/

/-- The next choice of the transport and the chip. -/
def nextChoice (s : State) : Choice :=
  match s.oracle with
  | c :: _ => c
  | [] => Config.choice s.draws

/-- That choice is used up. -/
def spend (s : State) : State := { s with oracle := s.oracle.tail, draws := s.draws + 1 }

/-- The opcodes the block encodes with: the descriptor's, or the defaults before there is one (R41, log 14). -/
def opcodesOf (s : State) : Opcodes :=
  match s.desc with
  | some d => d.ops
  | none => defaultOpcodes

/-- The session's descriptor does not describe the chip it talks to (44_flash_device_model.md R250). -/
def mismatched (s : State) : Bool :=
  match s.desc with
  | some d => decide (s.chip.geom ≠ some d)
  | none => false

/-- The chip after the block's exchange of `cmd`. -/
def exchangeChip (c : Choice) (cmd : Command) (s : State) : Chip :=
  if mismatched s then chipUnspecified c (chipSettle c s.chip)
  else if c.xferFails then chipFails c cmd (chipSettle c s.chip)
  else chipReceives c cmd (chipSettle c s.chip)

/-- The response bytes of the block's exchange of `cmd`: exactly `n` of them (60_exceptions.md R302). -/
def exchangeReply (c : Choice) (cmd : Command) (s : State) : List Byte :=
  (List.range (responseLength cmd)).map fun i =>
    if mismatched s then Config.freeByte c.epoch i else chipAnswers c cmd (chipSettle c s.chip) i

/-- `Xfer`'s result: the bytes, or none for TransportError. -/
def exchangeResult (c : Choice) (cmd : Command) (s : State) : Option (List Byte) :=
  if c.xferFails then none else some (exchangeReply c cmd s)

/-- The state after `Xfer(encode cmd, n)` (30_encoding.md R104): the chip has acted, and the exchange is on record. -/
def exchanged (cmd : Command) (s : State) : State :=
  let c := nextChoice s
  { spend s with
    chip := exchangeChip c cmd s
    wire := .xfer cmd (encodeFrame (opcodesOf s) cmd) (responseLength cmd) (exchangeResult c cmd s) :: s.wire }

/-- A primitive other than `Xfer` is put on record. -/
def recordWire (e : WireEvent) (s : State) : State := { s with wire := e :: s.wire }

/-- The writes of a status read (10_state.md R45). -/
def recordStatus (d : Descriptor) (b : Byte) (s : State) : State :=
  { s with lastStatus := some b, lockStatus := lockOf d.bpMask b }

/-! ### The chip driven directly -/

/-- A command that reaches the chip whole, not through the block (95_test_vectors.md section 13). -/
def probe (cmd : Command) (s : State) : State :=
  let c := nextChoice s
  { spend s with
    chip := chipReceives c cmd (chipSettle c s.chip)
    probeReply := (List.range (responseLength cmd)).map (chipAnswers c cmd (chipSettle c s.chip)) }

/-- Bytes that are none of the nine frames reach the chip: its state and its answer are drawn. For an opcode outside the
nine that is R264 and U2. DESIGN CHOICE (log 25), safe: so too for an empty frame and for one of the nine opcodes with a
length or a response count of no format of R108 or R111, where the spec states no effect. -/
def probeUnknown (n : Nat) (s : State) : State :=
  let c := nextChoice s
  { spend s with
    chip := chipUnspecified c (chipSettle c s.chip)
    probeReply := (List.range n).map (Config.freeByte c.epoch) }

/-- The chip's own step between frames (R251, R263). -/
def chipIdles (s : State) : State :=
  if s.chip.busy then { spend s with chip := chipSettle (nextChoice s) s.chip } else s

/-! ### The caller -/

/-- The head of the inbox is taken off the port. -/
def popInbox (s : State) : State := { s with inbox := s.inbox.tail }

/-- Record `r` is put on the request port. -/
def putOnPort (r : Request) (s : State) : State := { s with port := r }

/-- The pending response is delivered; the response register keeps it (R48, R105). -/
def deliver (s : State) : State :=
  match s.response with
  | some r => { s with delivered := r :: s.delivered, responsePending := false }
  | none => { s with responsePending := false }

/-- The creation of a block instance (R320): every field of the block at its reset value; the parameters, the chip and
what the outside holds are not the block's. -/
def newBlock (s : State) : State :=
  { State.reset with
    params := s.params
    chip := s.chip
    port := s.port
    inbox := s.inbox
    delivered := s.delivered
    wire := s.wire
    probeReply := s.probeReply
    oracle := s.oracle
    draws := s.draws }

/-- Building the machine (40_registry.md R141, 70_reset_and_hazards.md R323): parameters that fail the check are
refused. -/
def instantiate (p : Params) : Outcome :=
  if paramsWf p then .next { State.reset with params := p, chip := Chip.drawn p.registry (Config.choice 0) }
  else .refused .illFormedParameters

end Sys2Proof.Machine
end

