-- ==== Sys2Proof/Machine/Resume.lean ====
section
/-! DEFINITION. What the session does with the result of each exchange: the pseudocode of 42_session_control.md R192,
41_codec.md R167-R170 and 43_session_storage.md R220-R227, cut at its transport primitives (10_state.md R33). -/

namespace Sys2Proof.Machine

/-! ### ATTACH (R192) -/

/-- `Open`. A drawn chip stands behind the link (44_flash_device_model.md R268). -/
def openLink (s : State) : State :=
  let c := nextChoice s
  let s1 := recordWire (.open s.req.vid s.req.pid s.req.ifidx (!c.openFails)) (spend s)
  if c.openFails then raiseError (.transportError .open none) s1
  else
    { s1 with
      handle := .open
      phase := .identClock
      chip := if c.keepsArray then { Chip.drawn s.params.registry c with mem := s.chip.mem, epoch := s.chip.epoch }
              else Chip.drawn s.params.registry c }

/-- `SetClock(IDENT_CLOCK_HZ)`. -/
def setIdentClock (s : State) : State :=
  { recordWire (.setClock s.params.identClockHz) s with clockHz := some s.params.identClockHz, phase := .identify }

/-- The identification code is read: resolve it (40_registry.md R142, R143). -/
def identified (code : List Byte) (s : State) : State :=
  match resolve s.params.registry code with
  | some d => { s with phase := .deviceClock d }
  | none => { s with phase := .closeLink (.unknownDevice code) }

/-- `Close`, and the failure exit of ATTACH. -/
def closeFailed (e : ErrorRecord) (s : State) : State :=
  raiseError e { recordWire .close s with handle := .none, clockHz := none }

/-- `SetClock(clk)`, and the success exit of ATTACH. -/
def finishAttach (d : Descriptor) (s : State) : State :=
  succeed .empty
    { recordWire (.setClock (deviceClock s.params d)) s with
      clockHz := some (deviceClock s.params d)
      desc := some d
      lockStatus := .unknown
      lastStatus := none
      seq := .ready }

/-! ### Mutating commands -/

/-- The mutating frame job `j` sends next. -/
def jobFrame (d : Descriptor) (j : Job) (s : State) : Command :=
  match j with
  | .unlock => .wrsr (unprotect d.bpMask s.cur)
  | .eraseBulk => .be
  | .eraseSectors => .se (addrField s.addr)
  | .write => .pp (addrField s.addr) (chunkData s.req.data s.done (writeChunk d s))

/-- The progress an error of job `j` reports: WRITE only (60_exceptions.md R288). -/
def committed (j : Job) (s : State) : Option Nat :=
  match j with
  | .write => some s.done
  | .unlock | .eraseSectors | .eraseBulk => none

/-- The WaitReady before the first mutating command has read an idle status `b`: the lock decision and the start of
the job (R220, R221, R222, R227). -/
def beginJob (d : Descriptor) (j : Job) (b : Byte) (s : State) : State :=
  match j with
  | .unlock =>
    if statusProtected d.bpMask b then { s with phase := .writeEnable .unlock } else succeed .empty s
  | .eraseBulk =>
    if statusProtected d.bpMask b then raiseError (.lockedError b) s else { s with phase := .writeEnable .eraseBulk }
  | .eraseSectors =>
    if statusProtected d.bpMask b then raiseError (.lockedError b) s
    else { s with addr := (eraseRange d s.req).1, done := 0, phase := .writeEnable .eraseSectors }
  | .write =>
    if statusProtected d.bpMask b then raiseError (.lockedError b) s
    else { s with addr := s.req.offset.toNat, done := 0, phase := .writeEnable .write }

/-- The WaitReady after a mutating frame has read an idle status `b`: the next command, or the end of the job
(R221, R222, R227). -/
def advanceJob (d : Descriptor) (j : Job) (b : Byte) (s : State) : State :=
  match j with
  | .unlock => if statusProtected d.bpMask b then raiseError (.lockedError b) s else succeed .empty s
  | .eraseBulk => succeed (.range (eraseRange d s.req).1 (eraseRange d s.req).2) s
  | .eraseSectors =>
    let s1 := { s with addr := s.addr + d.sectorSize, done := s.done + 1 }
    if s1.addr < (eraseRange d s.req).2 then { s1 with phase := .writeEnable .eraseSectors }
    else succeed (.range (eraseRange d s.req).1 (eraseRange d s.req).2) s1
  | .write =>
    let k := writeChunk d s
    let s1 := { s with addr := s.addr + k, done := s.done + k }
    if s1.done < s.req.data.length then { s1 with phase := .writeEnable .write }
    else succeed (.count s.req.data.length) s1

/-- The poll budget is used up after `polls` busy reads (41_codec.md R171). -/
def budgetSpent (timeoutPolls : Option Nat) (polls : Nat) : Bool :=
  match timeoutPolls with
  | some n => decide (n ≤ polls)
  | none => false

/-- One turn of WaitReady's loop on status `b` (41_codec.md R170); `ready` is what follows an idle status. -/
def pollTurn (j : Job) (b : Byte) (ready : State → State) (s : State) : State :=
  let s1 := { s with cur := b }
  if statusBusy b then
    let s2 := { s1 with polls := s.polls + 1 }
    if budgetSpent s2.timeoutPolls s2.polls then raiseError (.timeout b (committed j s)) s2 else s2
  else ready s1

/-- A status byte was read with descriptor `d`: the writes of R45, then WaitReady's loop if one is running. -/
def statusRead (d : Descriptor) (b : Byte) (s : State) : State :=
  match s.phase with
  | .waitIdle j => pollTurn j b (beginJob d j b) (recordStatus d b s)
  | .waitDone j => pollTurn j b (advanceJob d j b) (recordStatus d b s)
  | .idle | .openLink | .identClock | .identify | .deviceClock _ | .closeLink _ | .writeEnable _ | .mutate _ | .readData =>
    recordStatus d b s

/-- WREN was sent: its mutating frame follows at once (41_codec.md R165). -/
def enabled (s : State) : State :=
  match s.phase with
  | .writeEnable j => { s with phase := .mutate j }
  | .idle | .openLink | .identClock | .identify | .deviceClock _ | .closeLink _ | .waitIdle _ | .mutate _ | .waitDone _
  | .readData => s

/-- A mutating frame was sent: WaitReady follows, its count at 0 (41_codec.md R166, R172). -/
def mutationSent (s : State) : State :=
  match s.phase with
  | .mutate j => { s with mutated := true, polls := 0, phase := .waitDone j }
  | .idle | .openLink | .identClock | .identify | .deviceClock _ | .closeLink _ | .waitIdle _ | .writeEnable _
  | .waitDone _ | .readData => s

/-- A read-data exchange returned `r` (43_session_storage.md R225). -/
def gathered (r : List Byte) (s : State) : State :=
  match s.phase with
  | .readData =>
    let s1 := { s with
      acc := s.acc ++ r
      addr := s.addr + batchLength s.params.maxRead s.req.length.toNat s.acc.length }
    if s1.acc.length < s.req.length.toNat then s1 else succeed (.data s1.acc) s1
  | .idle | .openLink | .identClock | .identify | .deviceClock _ | .closeLink _ | .waitIdle _ | .writeEnable _ | .mutate _
  | .waitDone _ => s

/-- The exchange of `cmd` returned `r`. Where the session does not await it, only a status read in an attached state
leaves a trace in the block (R45). -/
def resume (cmd : Command) (r : List Byte) (s : State) : State :=
  match cmd with
  | .rdid => if s.phase = .identify then identified r s else s
  | .rdsr =>
    match s.desc with
    | some d => statusRead d (r.headD 0) s
    | none => s
  | .wren => enabled s
  | .wrdi => s
  | .wrsr _ | .se _ | .be | .pp _ _ => mutationSent s
  | .readData _ _ => gathered r s

/-- The exchange returned TransportError: the command writes no block state and the enclosing operation takes its exit
(41_codec.md R151, 60_exceptions.md R290). A failed mutating frame counts as passed to `Xfer` (R37). -/
def abandon (s : State) : State :=
  match s.phase with
  | .identify => { s with phase := .closeLink (.transportError .exchange none) }
  | .waitIdle j | .writeEnable j | .waitDone j => raiseError (.transportError .exchange (committed j s)) s
  | .mutate j => raiseError (.transportError .exchange (committed j s)) { s with mutated := true }
  | .readData => raiseError (.transportError .exchange none) s
  | .idle | .openLink | .identClock | .deviceClock _ | .closeLink _ => s

/-- One command of the codec: one `Xfer` and the state writes that follow it (41_codec.md R150, R151), when the block
holds the link; else the frame is driven to the chip directly. -/
def sendCommand (cmd : Command) (s : State) : State :=
  match s.handle with
  | .open =>
    match exchangeResult (nextChoice s) cmd s with
    | some r => resume cmd r (exchanged cmd s)
    | none => abandon (exchanged cmd s)
  | .none => probe cmd s

end Sys2Proof.Machine
end

