-- ==== Sys2Proof/Machine/Frames.lean ====
section
/-! DEFINITION. The nine commands of the codec (41_codec.md R152-R160), each one frame. -/

namespace Sys2Proof.Machine

/-- RDID (R152). -/
def execRdid (s : State) : Outcome := .next (sendCommand .rdid s)

/-- RDSR (R153). -/
def execRdsr (s : State) : Outcome := .next (sendCommand .rdsr s)

/-- WREN (R154). -/
def execWren (s : State) : Outcome := .next (sendCommand .wren s)

/-- WRDI (R155): no operation of the session sends it. -/
def execWrdi (s : State) : Outcome := .next (sendCommand .wrdi s)

/-- WRSR (R156). -/
def execWrsr (value : Byte) (s : State) : Outcome := .next (sendCommand (.wrsr value) s)

/-- SE (R157). -/
def execSe (addr : FlashAddr) (s : State) : Outcome := .next (sendCommand (.se addr) s)

/-- BE (R158). -/
def execBe (s : State) : Outcome := .next (sendCommand .be s)

/-- PP (R159). -/
def execPp (addr : FlashAddr) (data : List Byte) (s : State) : Outcome := .next (sendCommand (.pp addr data) s)

/-- READ_DATA (R160). -/
def execReadData (addr : FlashAddr) (count : Nat) (s : State) : Outcome := .next (sendCommand (.readData addr count) s)

end Sys2Proof.Machine
end

