-- ==== Sys2Proof/Machine/Session.lean ====
section
/-! DEFINITION. The session's lifecycle and query requests (42_session_control.md). -/

namespace Sys2Proof.Machine

/-- States that accept ATTACH (R190). -/
def admitsAttach : Seq → Bool
  | .unattached => true
  | .ready | .released | .identifying | .reading | .erasing | .programming => false

/-- States that accept RELEASE and SET_TIMEOUT (R190). -/
def admitsControl : Seq → Bool
  | .unattached | .ready => true
  | .released | .identifying | .reading | .erasing | .programming => false

/-- States that accept the queries and the storage requests (R190). -/
def admitsSession : Seq → Bool
  | .ready => true
  | .unattached | .released | .identifying | .reading | .erasing | .programming => false

/-- ATTACH (R192): the step that accepts it. -/
def execAttach (vid pid : BitVec 16) (ifidx : BitVec 8) (s : State) : Outcome :=
  present (portRecord (.attach vid pid ifidx) s) admitsAttach
    (fun s => .next { s with seq := .identifying, phase := .openLink }) s

/-- RELEASE (R193). -/
def execRelease (s : State) : Outcome :=
  present (portRecord .release s) admitsControl
    (fun s =>
      .next (succeed .empty
        (if s.seq = .ready then { recordWire .close s with handle := .none, seq := .released }
         else { s with seq := .released }))) s

/-- SIZE (R194). -/
def execSize (s : State) : Outcome :=
  present (portRecord .size s) admitsSession (withDesc fun d => succeed (.size d.size)) s

/-- NAME (R195). -/
def execName (s : State) : Outcome :=
  present (portRecord .name s) admitsSession (withDesc fun d => succeed (.name d.name)) s

/-- FREQUENCY (R196). -/
def execFrequency (s : State) : Outcome :=
  present (portRecord .frequency s) admitsSession (fun s => .next (succeed (.clock s.clockHz) s)) s

/-- FLAGS (R197). -/
def execFlags (s : State) : Outcome :=
  present (portRecord .flags s) admitsSession (withDesc fun d => succeed (.flags (flagsValue d))) s

/-- The one exchange of STATUS and its two ends (R198). -/
def statusExchange (d : Descriptor) (s : State) : State :=
  match exchangeResult (nextChoice s) .rdsr s with
  | some r => succeed (.status (r.headD 0)) (recordStatus d (r.headD 0) (exchanged .rdsr s))
  | none => raiseError (.transportError .exchange none) (exchanged .rdsr s)

/-- STATUS (R198): acceptance, the read-status exchange and the response are one step, since `seq` stays `Ready`. -/
def execStatus (s : State) : Outcome :=
  present (portRecord .status s) admitsSession (withDesc statusExchange) s

/-- SET_TIMEOUT (R199). -/
def execSetTimeout (timeout : BitVec 32) (s : State) : Outcome :=
  present (portRecord (.setTimeout timeout) s) admitsControl
    (fun s =>
      .next (succeed .empty { s with timeoutPolls := if timeout = 0 then none else some timeout.toNat })) s

end Sys2Proof.Machine
end

