-- ==== Sys2Proof/Machine/Storage.lean ====
section
/-! DEFINITION. The storage requests (43_session_storage.md): each step here accepts the request and makes the checks
that come before any transport primitive (60_exceptions.md R289). -/

namespace Sys2Proof.Machine

/-- The operation enters its first WaitReady (41_codec.md R168), its count at 0. -/
def enterJob (q : Seq) (j : Job) (s : State) : State :=
  { s with seq := q, phase := .waitIdle j, polls := 0, done := 0 }

/-- UNLOCK (R221). -/
def execUnlock (s : State) : Outcome :=
  present (portRecord .unlock s) admitsSession
    (withDesc fun d s =>
      if d.supportsLock then enterJob .programming .unlock s else raiseError (.unsupportedOperation .lock) s) s

/-- ERASE of `n` bytes at `o` on device `d` (R222). -/
def beginErase (o n : Nat) (bulk bestEffort : Bool) (d : Descriptor) (s : State) : State :=
  if inRange d.size o n then
    if bestEffort || sectorAligned d.sectorSize o n then
      if (effectiveRange d.sectorSize o n bestEffort).1 = (effectiveRange d.sectorSize o n bestEffort).2 then
        succeed (.range (effectiveRange d.sectorSize o n bestEffort).1 (effectiveRange d.sectorSize o n bestEffort).2) s
      else if useBulk d o n bulk then enterJob .erasing .eraseBulk s
      else enterJob .erasing .eraseSectors s
    else raiseError (.rangeError .alignment) s
  else raiseError (.rangeError .bounds) s

/-- ERASE (R222). -/
def execErase (offset length : BitVec 32) (bulk bestEffort : Bool) (s : State) : Outcome :=
  present (portRecord (.erase offset length bulk bestEffort) s) admitsSession
    (withDesc (beginErase offset.toNat length.toNat bulk bestEffort)) s

/-- READ of `n` bytes at `o` on device `d` (R225). -/
def beginRead (o n : Nat) (d : Descriptor) (s : State) : State :=
  if inRange d.size o n then
    if n = 0 then succeed (.data []) s
    else { s with seq := .reading, phase := .readData, acc := [], addr := o }
  else raiseError (.rangeError .bounds) s

/-- READ, the request (R225). -/
def execRead (offset length : BitVec 32) (s : State) : Outcome :=
  present (portRecord (.read offset length) s) admitsSession (withDesc (beginRead offset.toNat length.toNat)) s

/-- WRITE of `n` bytes at `o` on device `d` (R227). -/
def beginWrite (o n : Nat) (d : Descriptor) (s : State) : State :=
  if inRange d.size o n then
    if n = 0 then succeed (.count 0) s else enterJob .programming .write s
  else raiseError (.rangeError .bounds) s

/-- WRITE (R227). -/
def execWrite (offset : BitVec 32) (data : List Byte) (s : State) : Outcome :=
  present (portRecord (.write offset data) s) admitsSession (withDesc (beginWrite offset.toNat data.length)) s

end Sys2Proof.Machine
end

