-- ==== Sys2Proof/Machine/Dispatch.lean ====
section
/-! DEFINITION. The dispatch: one arm per row of spec/opcode_table.json. -/

namespace Sys2Proof.Machine

def exec (i : Instr) (s : State) : Host.Outcome State Fault Refusal :=
  match i with
  | .attach vid pid ifidx => Sys2Proof.Machine.execAttach vid pid ifidx s
  | .release => Sys2Proof.Machine.execRelease s
  | .size => Sys2Proof.Machine.execSize s
  | .name => Sys2Proof.Machine.execName s
  | .frequency => Sys2Proof.Machine.execFrequency s
  | .flags => Sys2Proof.Machine.execFlags s
  | .status => Sys2Proof.Machine.execStatus s
  | .setTimeout timeout => Sys2Proof.Machine.execSetTimeout timeout s
  | .unlock => Sys2Proof.Machine.execUnlock s
  | .erase offset length bulk bestEffort => Sys2Proof.Machine.execErase offset length bulk bestEffort s
  | .read offset length => Sys2Proof.Machine.execRead offset length s
  | .write offset data => Sys2Proof.Machine.execWrite offset data s
  | .rdid => Sys2Proof.Machine.execRdid s
  | .rdsr => Sys2Proof.Machine.execRdsr s
  | .wren => Sys2Proof.Machine.execWren s
  | .wrdi => Sys2Proof.Machine.execWrdi s
  | .wrsr value => Sys2Proof.Machine.execWrsr value s
  | .se addr => Sys2Proof.Machine.execSe addr s
  | .be => Sys2Proof.Machine.execBe s
  | .pp addr data => Sys2Proof.Machine.execPp addr data s
  | .readData addr count => Sys2Proof.Machine.execReadData addr count s

end Sys2Proof.Machine
end

