-- ==== Sys2Proof/Machine/Sequencer.lean ====
section
/-! DEFINITION. One step of the whole machine (10_state.md R33): the next primitive of the operation in flight, or, with
none in flight, the delivery of the pending response, the caller's next input, or the chip's own step. -/

namespace Sys2Proof.Machine

/-- The read-data frame a READ in flight sends next (43_session_storage.md R225). -/
def readFrame (s : State) : Command :=
  .readData (addrField s.addr) (batchLength s.params.maxRead s.req.length.toNat s.acc.length)

/-- The opcodes the attached chip answers to: its own, or the defaults where the registry knows no such chip. -/
def chipOpcodes (s : State) : Opcodes :=
  match s.chip.geom with
  | some g => g.ops
  | none => defaultOpcodes

/-- A request record is put on the port, decoded and presented; a reserved op code is answered `ReservedOp` in every
state that accepts requests (30_encoding.md R102), and a record that is no request has no meaning (R100). -/
def takeRequest (r : Request) (s : State) : Outcome :=
  match decode (chipOpcodes s) (.request r) with
  | .ok i => exec i (putOnPort r s)
  | .error (.reservedOp _) =>
    if accepting s then .next (refuseRequest .reservedOp (putOnPort r s)) else .next (hold r (putOnPort r s))
  | .error _ => .refused .malformedRequest

/-- A frame from outside the block: decoded by the chip and run, while the block holds no link (U16); bytes that are
none of the nine frames, in opcode or in format, are `probeUnknown` (R264, log 25). -/
def takeFrame (w : List Byte) (n : Nat) (s : State) : Outcome :=
  match s.handle with
  | .open => .refused .sharedChip
  | .none =>
    match decode (chipOpcodes s) (.frame w n) with
    | .ok i => exec i s
    | .error _ => .next (probeUnknown n s)

/-- A step with no operation in flight. -/
def idleStep (s : State) : Outcome :=
  if s.responsePending then .next (deliver s)
  else
    match s.inbox with
    | .request r :: _ => takeRequest r (popInbox s)
    | .newBlock :: _ => .next (newBlock (popInbox s))
    | .frame w n :: _ => takeFrame w n (popInbox s)
    | [] => .next (chipIdles s)

/-- A step of the machine. The commands of an operation in flight are run as instructions. -/
def sequencer (s : State) : Outcome :=
  match s.phase with
  | .idle => idleStep s
  | .openLink => .next (openLink s)
  | .identClock => .next (setIdentClock s)
  | .identify => exec .rdid s
  | .deviceClock d => .next (finishAttach d s)
  | .closeLink e => .next (closeFailed e s)
  | .waitIdle _ =>
    match s.desc with
    | some _ => exec .rdsr s
    | none => .fault .noDescriptor
  | .writeEnable _ =>
    match s.desc with
    | some _ => exec .wren s
    | none => .fault .noDescriptor
  | .mutate j =>
    match s.desc with
    | some d => exec (commandInstr (jobFrame d j s)) s
    | none => .fault .noDescriptor
  | .waitDone _ =>
    match s.desc with
    | some _ => exec .rdsr s
    | none => .fault .noDescriptor
  | .readData =>
    match s.desc with
    | some _ => exec (commandInstr (readFrame s)) s
    | none => .fault .noDescriptor

/-- The descriptor that gives a chip the default opcodes of the opcode table (log 12). -/
def tableGeometry (id : List Byte) : Descriptor :=
  { id := id, name := [0x53], size := 2 ^ 24, sectorSize := 4096, pageSize := 256, maxClockHz := 1, slowProgram := false,
    supportsBulk := true, supportsLock := true, bpMask := 0x1C, ops := defaultOpcodes }

/-- `e` placed where the next step takes its input from (log 12): at the head of the inbox of an idle block with no
response to deliver; for a frame, on a link the block does not hold, with a chip that answers to the default opcodes. -/
def placeInput (e : Encoded) (s : State) : State :=
  match e with
  | .request r => { s with phase := .idle, responsePending := false, inbox := .request r :: s.inbox }
  | .frame w n =>
    { s with
      phase := .idle
      responsePending := false
      handle := .none
      inbox := .frame w n :: s.inbox
      chip := { s.chip with geom := some (tableGeometry s.chip.id) } }

end Sys2Proof.Machine
end

