-- ==== Sys2Proof/Machine/Step.lean ====
section
/-! DEFINITION. The step of the machine, and the host's way to place an instruction where the step takes its next one.
-/

namespace Sys2Proof.Machine

/-- One step (10_state.md R33). -/
def step (s : State) : Host.Outcome State Fault Refusal := sequencer s

/-- `s` with the table word `w` placed where `step` takes its next instruction (log 12). -/
def State.withFetchWord (s : State) (nbits w : Nat) : State := placeInput (tableEncoded nbits w) s

end Sys2Proof.Machine
end

