-- ==== Sys2Proof/Safety.lean ====
section
/-! DEFINITION. What counts as a good state, in the terms the statements use: the relations between the fields of the
state that 10_state.md, 30_encoding.md, 42_session_control.md and 43_session_storage.md give, and the order of frames on
the wire of 41_codec.md R165-R168. -/

namespace Sys2Proof.Machine

/-! ### The session -/

/-- The sequencer state a job runs in (10_state.md R32). -/
def jobSeq : Job → Seq
  | .unlock | .write => .programming
  | .eraseSectors | .eraseBulk => .erasing

/-- `seq` agrees with the position in the operation (10_state.md R31, R32). -/
def seqAgrees (s : State) : Prop :=
  match s.phase with
  | .idle => seqAccepts s.seq = true
  | .openLink | .identClock | .identify | .deviceClock _ | .closeLink _ => s.seq = .identifying
  | .waitIdle j | .writeEnable j | .mutate j | .waitDone j => s.seq = jobSeq j
  | .readData => s.seq = .reading

/-- The session is attached (10_state.md R35). -/
def attached : Seq → Bool
  | .ready | .reading | .erasing | .programming => true
  | .unattached | .identifying | .released => false

/-- The link is held exactly from a successful `Open` to the `Close` (10_state.md R34, 42_session_control.md R201). -/
def linkHeld (s : State) : Prop :=
  s.handle = .open ↔ attached s.seq = true ∨ (s.seq = .identifying ∧ s.phase ≠ .openLink)

/-- The descriptor is none before an ATTACH has succeeded, and an entry of the registry while attached
(10_state.md R35, 40_registry.md R145). -/
def descAgrees (s : State) : Prop :=
  (attached s.seq = true → s.desc ≠ none)
    ∧ (s.seq = .unattached ∨ s.seq = .identifying → s.desc = none)
    ∧ (∀ d, s.desc = some d → d ∈ s.params.registry)
    ∧ (∀ d, s.phase = .deviceClock d → d ∈ s.params.registry)

/-- The configured clock (10_state.md R38): none while unattached and before the first clock of an ATTACH is set, the
descriptor's while attached (42_session_control.md R196). -/
def clockAgrees (s : State) : Prop :=
  (s.seq = .unattached ∨ s.phase = .openLink → s.clockHz = none)
    ∧ (∀ d, attached s.seq = true → s.desc = some d → s.clockHz = some (deviceClock s.params d))

/-- A response is pending only between operations (70_reset_and_hazards.md R333). -/
def responseAgrees (s : State) : Prop := s.responsePending = true → s.phase = .idle ∧ s.response ≠ none

/-- A poll budget is at least 1, and a WaitReady in progress has not used it up (10_state.md R39, 41_codec.md R171). -/
def budgetAgrees (s : State) : Prop :=
  ∀ n, s.timeoutPolls = some n →
    1 ≤ n ∧ match s.phase with
      | .waitIdle _ | .waitDone _ => s.polls < n
      | .idle | .openLink | .identClock | .identify | .deviceClock _ | .closeLink _ | .writeEnable _ | .mutate _
      | .readData => True

/-- What the checks before any transport primitive established for job `j` (43_session_storage.md R221, R222, R224, R227). -/
def jobAdmitted (d : Descriptor) (j : Job) (r : ReqRegs) : Prop :=
  match j with
  | .unlock => d.supportsLock = true
  | .eraseBulk =>
    d.supportsBulk = true ∧ r.bulk = true ∧ r.offset.toNat = 0 ∧ r.length.toNat = d.size ∧ r.length.toNat ≠ 0
  | .eraseSectors =>
    r.offset.toNat + r.length.toNat ≤ d.size ∧ r.length.toNat ≠ 0
      ∧ (r.bestEffort = true ∨ (r.offset.toNat % d.sectorSize = 0 ∧ r.length.toNat % d.sectorSize = 0))
  | .write => r.offset.toNat + r.data.length ≤ d.size ∧ r.data ≠ []

/-- The working registers between the first mutating command and the end of job `j`: the next sector or chunk lies
inside the request (R222, R227). -/
def jobPosition (d : Descriptor) (j : Job) (s : State) : Prop :=
  match j with
  | .unlock | .eraseBulk => True
  | .eraseSectors =>
    s.addr = (eraseRange d s.req).1 + s.done * d.sectorSize ∧ s.addr + d.sectorSize ≤ (eraseRange d s.req).2
  | .write => s.addr = s.req.offset.toNat + s.done ∧ s.done < s.req.data.length

/-- The working registers of the operation in flight (10_state.md R47). -/
def workAgrees (s : State) : Prop :=
  ∀ d, s.desc = some d →
    match s.phase with
    | .waitIdle j => jobAdmitted d j s.req
    | .writeEnable j | .mutate j | .waitDone j => jobAdmitted d j s.req ∧ jobPosition d j s
    | .readData =>
      s.req.offset.toNat + s.req.length.toNat ≤ d.size ∧ s.acc.length < s.req.length.toNat
        ∧ s.addr = s.req.offset.toNat + s.acc.length
    | .idle | .openLink | .identClock | .identify | .deviceClock _ | .closeLink _ => True

/-- The bound of 10_state.md R46 and 30_encoding.md R100 on the data latched and on the data at the port. -/
def dataAgrees (s : State) : Prop := s.req.data.length < 2 ^ 32 ∧ s.port.data.length < 2 ^ 32

/-- The session invariant. -/
def SessionInv (s : State) : Prop :=
  paramsWf s.params = true ∧ seqAgrees s ∧ linkHeld s ∧ descAgrees s ∧ clockAgrees s ∧ responseAgrees s
    ∧ budgetAgrees s ∧ workAgrees s ∧ dataAgrees s

/-- The chip's array is in its canonical form. -/
def MemoryInv (s : State) : Prop := memWf (chipBackground s.chip) s.chip.mem

/-! ### The wire -/

/-- A WREN whose exchange succeeded. -/
def isEnable : WireEvent → Bool
  | .xfer .wren _ _ (some _) => true
  | .xfer _ _ _ _ | .open _ _ _ _ | .setClock _ | .close => false

/-- A WREN, whether or not its exchange succeeded. -/
def isEnableFrame : WireEvent → Bool
  | .xfer .wren _ _ _ => true
  | .xfer _ _ _ _ | .open _ _ _ _ | .setClock _ | .close => false

/-- A mutating frame, whether or not its exchange succeeded (00_scope.md R20). -/
def isMutation : WireEvent → Bool
  | .xfer c _ _ _ => commandMutates c
  | .open _ _ _ _ | .setClock _ | .close => false

/-- A mutating frame whose exchange succeeded. -/
def isMutationDone : WireEvent → Bool
  | .xfer c _ _ (some _) => commandMutates c
  | .xfer _ _ _ none | .open _ _ _ _ | .setClock _ | .close => false

/-- A status read. -/
def isStatusRead : WireEvent → Bool
  | .xfer .rdsr _ _ _ => true
  | .xfer _ _ _ _ | .open _ _ _ _ | .setClock _ | .close => false

/-- A status read that showed the chip idle. -/
def isIdleStatus : WireEvent → Bool
  | .xfer .rdsr _ _ (some r) => !(statusBusy (r.headD 0))
  | .xfer _ _ _ _ | .open _ _ _ _ | .setClock _ | .close => false

/-- The newest event of a wire history satisfies `p`. -/
def newestIs (p : WireEvent → Bool) : List WireEvent → Bool
  | [] => false
  | e :: _ => p e

/-- `e` may follow the history `older` (41_codec.md R165, R166, R168): a mutating frame comes right after a WREN that
succeeded, and nothing else does; the first thing after a mutating frame that succeeded is a status read; a WREN comes
right after a status read that showed the chip idle. -/
def mayFollow (e : WireEvent) (older : List WireEvent) : Bool :=
  (isMutation e == newestIs isEnable older)
    && (!(newestIs isMutationDone older) || isStatusRead e)
    && (!(isEnableFrame e) || newestIs isIdleStatus older)

/-- Every event of the wire history, newest first, may follow what came before it. -/
def wireGated : List WireEvent → Bool
  | [] => true
  | e :: older => mayFollow e older && wireGated older

/-- The position in the operation agrees with the newest event on the wire. -/
def wireAgrees (s : State) : Bool :=
  match s.phase with
  | .mutate _ => newestIs isEnable s.wire
  | .writeEnable _ => newestIs isIdleStatus s.wire
  | .waitDone _ => !(newestIs isEnable s.wire)
  | .idle | .openLink | .identClock | .identify | .deviceClock _ | .closeLink _ | .waitIdle _ | .readData =>
    !(newestIs isEnable s.wire) && !(newestIs isMutationDone s.wire)

/-- The order of frames on the wire. -/
def GatingInv (s : State) : Prop := wireGated s.wire = true ∧ wireAgrees s = true

/-- An exchange is one the codec may make (30_encoding.md R108, R111, 41_codec.md R152-R160): RDID before there is a
descriptor, or a command with operands legal on a device of the registry, in that device's encoding; within
`MAX_WRITE_FRAME`; and answered, if at all, with exactly `n` bytes. -/
def eventLegal (p : Params) : WireEvent → Prop
  | .xfer cmd w n reply =>
    n = responseLength cmd ∧ (∀ r, reply = some r → r.length = n) ∧ w.length ≤ p.maxWriteFrame
      ∧ ((cmd = .rdid ∧ w = [Config.opRdid])
          ∨ ∃ d ∈ p.registry, w = encodeFrame d.ops cmd ∧ (commandInstr cmd).legal p d = true)
  | .open _ _ _ _ | .setClock _ | .close => True

/-- Every exchange on the wire is legal. -/
def FramesInv (s : State) : Prop := ∀ e ∈ s.wire, eventLegal s.params e

/-! ### Conditions the statements name -/

/-- The sequencer states that accept a request instruction (42_session_control.md R190); none for the codec's commands. -/
def acceptedIn : Instr → Option (List Seq)
  | .attach .. => some [.unattached]
  | .release | .setTimeout .. => some [.unattached, .ready]
  | .size | .name | .frequency | .flags | .status | .unlock | .erase .. | .read .. | .write .. => some [.ready]
  | .rdid | .rdsr | .wren | .wrdi | .wrsr .. | .se .. | .be | .pp .. | .readData .. => none

/-- The block is attached to `d`, idle, and has no response to deliver: it executes a session request. -/
def readyWith (d : Descriptor) (s : State) : Prop :=
  s.seq = .ready ∧ s.responsePending = false ∧ s.desc = some d

/-- The block holds the link with descriptor `d`, `d` describes the chip, and the next exchange succeeds. -/
def linkedTo (d : Descriptor) (s : State) : Prop :=
  s.handle = .open ∧ s.desc = some d ∧ s.chip.geom = some d ∧ (nextChoice s).xferFails = false

/-- The next frame reaches the chip, idle or busy, that `g` describes: sent by the block over the link, or driven
directly while the block holds none. -/
def reachesChip (g : Descriptor) (s : State) : Prop :=
  s.chip.geom = some g ∧ (s.handle = .none ∨ (s.desc = some g ∧ (nextChoice s).xferFails = false))

/-- The next frame reaches an idle chip that `g` describes: sent by the block over the link, or driven directly while
the block holds none. -/
def reachesIdle (g : Descriptor) (s : State) : Prop :=
  s.chip.geom = some g ∧ s.chip.busy = false
    ∧ (s.handle = .none ∨ (s.desc = some g ∧ (nextChoice s).xferFails = false))

/-- The state `k` steps later, if every step answers a next state. -/
def afterSteps : Nat → State → Option State
  | 0, s => some s
  | k + 1, s =>
    match step s with
    | .next t => afterSteps k t
    | .fault _ => none
    | .refused _ => none

/-- Runs the operation in flight to its end: the first state with none in flight within `k` steps. -/
def untilIdle : Nat → State → Option State
  | 0, s => if s.phase = .idle then some s else none
  | k + 1, s =>
    if s.phase = .idle then some s
    else
      match step s with
      | .next t => untilIdle k t
      | .fault _ => none
      | .refused _ => none

/-- The state with every working register the position in the operation makes no use of set to a fixed value
(10_state.md R47: they are "unspecified otherwise"). -/
def liveView (s : State) : State :=
  match s.phase with
  | .idle | .openLink | .identClock | .identify | .deviceClock _ | .closeLink _
  | .writeEnable .eraseBulk | .mutate .eraseBulk => { s with addr := 0, done := 0, polls := 0, cur := 0, acc := [] }
  | .waitIdle .write => { s with addr := 0, cur := 0, acc := [] }
  | .waitIdle .unlock | .waitIdle .eraseBulk | .waitIdle .eraseSectors | .waitDone .unlock | .waitDone .eraseBulk =>
    { s with addr := 0, done := 0, cur := 0, acc := [] }
  | .writeEnable .unlock | .mutate .unlock => { s with addr := 0, done := 0, polls := 0, acc := [] }
  | .writeEnable .eraseSectors | .mutate .eraseSectors | .writeEnable .write | .mutate .write =>
    { s with polls := 0, cur := 0, acc := [] }
  | .waitDone .eraseSectors | .waitDone .write => { s with cur := 0, acc := [] }
  | .readData => { s with done := 0, polls := 0, cur := 0 }

/-- The outcome of a step with the working registers that are not live left out. -/
def liveOutcome : Outcome → Outcome
  | .next t => .next (liveView t)
  | .fault r => .fault r
  | .refused r => .refused r

end Sys2Proof.Machine
end

