-- ==== Sys2Proof/Certificates/Slice0/Obligations.lean ====
section
/-! DEFINITION. The statements for the provers. Each docstring names the rule of spec/ it formalises. A statement about
a free value (a choice of the transport or the chip, `Config.freeByte`, `Config.flashByte`, `Config.prot`, the
parameters) holds for every value of it. -/

open Sys2Proof Sys2Proof.Machine

/-! ### Encoding -/

/-- Words written out from 30_encoding.md R101, R108, R109 and 95_test_vectors.md section 3. -/
def Obligations.SpecWordsDecode : Prop :=
  decodeTableWord 4 0x1 = some .release ∧ decodeTableWord 8 0x9F = some .rdid ∧ decodeTableWord 8 0xC7 = some .be
    ∧ decode defaultOpcodes (.request { op := 0x9, offset := 0x7000, length := 0x1000, bulk := true })
        = .ok (.erase 0x7000 0x1000 true false)
    ∧ decode defaultOpcodes (.frame [0x20, 0x1F, 0xF0, 0x00] 0) = .ok (.se 0x1FF000)
    ∧ decode defaultOpcodes (.frame [0x02, 0x00, 0x00, 0xFF, 0x11] 0) = .ok (.pp 0x0000FF [0x11])
    ∧ decode defaultOpcodes (.frame [0x03, 0x12, 0x34, 0x56] 16) = .ok (.readData 0x123456 16)
    ∧ decode defaultOpcodes (.frame [0x01, 0x82] 0) = .ok (.wrsr 0x82)

/-- Decoding an encoded well-formed instruction gives it back, under any nine distinct opcodes (R101, R108, R109,
40_registry.md R141 item 9). -/
def Obligations.DecodeOfEncode : Prop :=
  ∀ (ops : Opcodes) (i : Instr), opcodesWf ops = true → i.wf = true → decode ops (encode ops i) = .ok i

/-- Bytes that decode to a command are exactly that command's frame, with exactly its response count (R108, R111). -/
def Obligations.EncodeOfDecodedFrame : Prop :=
  ∀ (ops : Opcodes) (w : List Byte) (n : Nat) (c : Command), decodeFrame ops w n = .ok c →
    encodeFrame ops c = w ∧ responseLength c = n

/-- The address field is three bytes, most significant first (20_memory.md R74). -/
def Obligations.AddressFieldMsbFirst : Prop :=
  ∀ a : FlashAddr,
    addr3 a = [BitVec.ofNat 8 (a.toNat / 65536), BitVec.ofNat 8 (a.toNat / 256), BitVec.ofNat 8 a.toNat]

/-! ### What a step runs -/

/-- With no operation in flight, a pending response is delivered first, whatever waits; else the caller's next record is put on the port
and run as the instruction it decodes to (10_state.md R33, R48, 30_encoding.md R105). That the caller is a queue, and that
delivery is a step of its own before the next input, is the model's choice (log 6), and so is the port's field (log 16). The working registers
keep their values, which is the model's choice outside an operation (log 26). -/
def Obligations.StepRunsRequestOnPort : Prop :=
  (∀ (s : State) (r : Request) (rest : List Input) (i : Instr), s.phase = .idle → s.responsePending = false →
      s.inbox = .request r :: rest → decodeRequest r = .ok i → step s = exec i { s with inbox := rest, port := r })
    ∧ ∀ (s : State) (resp : Response), s.phase = .idle → s.responsePending = true → s.response = some resp →
      step s = .next { s with delivered := resp :: s.delivered, responsePending := false }

/-- A frame driven to the chip while the block holds no link is run as the instruction the chip decodes; bytes it does
not decode leave the whole chip open (44_flash_device_model.md R251, R264 for an opcode outside the nine). Driving the chip
so, and the same for one of the nine opcodes in another format, is the model's choice (logs 8 and 25). -/
def Obligations.StepRunsDirectFrame : Prop :=
  ∀ (s : State) (w : List Byte) (n : Nat) (rest : List Input),
    s.phase = .idle → s.responsePending = false → s.inbox = .frame w n :: rest → s.handle = .none →
      (∀ i, decode (chipOpcodes s) (.frame w n) = .ok i → step s = exec i { s with inbox := rest })
        ∧ (∀ e, decode (chipOpcodes s) (.frame w n) = .error e →
            ∃ t, step s = .next t ∧ t.seq = s.seq ∧ t.response = s.response ∧ t.wire = s.wire
              ∧ t.chip = chipUnspecified (nextChoice s) (chipSettle (nextChoice s) s.chip))

/-- While an operation is in flight, a step runs the command its position asks for: RDID, RDSR, WREN, the mutating
frame of the job, or the next read-data frame (R33, 41_codec.md R152, R167, R170, 42_session_control.md R192,
43_session_storage.md R225). RDID is sent before there is a descriptor (10_state.md R35). -/
def Obligations.StepRunsCommandInFlight : Prop :=
  (∀ s : State, s.phase = .identify → step s = exec .rdid s)
    ∧ ∀ (s : State) (d : Descriptor) (j : Job), s.desc = some d →
      (s.phase = .waitIdle j ∨ s.phase = .waitDone j → step s = exec .rdsr s)
      ∧ (s.phase = .writeEnable j → step s = exec .wren s)
      ∧ (s.phase = .mutate j → step s = exec (commandInstr (jobFrame d j s)) s)
      ∧ (s.phase = .readData → step s = exec (commandInstr (readFrame s)) s)

/-! ### Acceptance of requests -/

/-- The acceptance table of 42_session_control.md R190 with 30_encoding.md R105: a request is held while an operation is in
flight or a response is pending; it is answered InvalidRequest(WrongState), nothing else changed, in a state not listed for
it (60_exceptions.md R287); and one accepted from the port latches every field of its record (10_state.md R46). That a held
request goes back to the head of the caller's queue is the model's choice (log 6), and so is the record it goes back as, the
port's with the request's own fields laid over it (log 16), and that the working registers keep their values (log 26). -/
def Obligations.AcceptanceFollowsState : Prop :=
  ∀ (i : Instr) (states : List Seq) (s : State), acceptedIn i = some states →
    (seqAccepts s.seq = false ∨ s.responsePending = true →
        exec i s = .next { s with inbox := .request (recordOn s.port i) :: s.inbox })
      ∧ (seqAccepts s.seq = true → s.responsePending = false → s.seq ∉ states →
          exec i s = .next
            { s with
              phase := .idle
              response := some (.err (.invalidRequest .wrongState))
              responsePending := true })
      ∧ (∀ (r : Request) (rest : List Input), s.phase = .idle → s.responsePending = false →
          s.inbox = .request r :: rest → decodeRequest r = .ok i → s.seq ∈ states → (s.seq = .ready → s.desc ≠ none) →
            ∃ t, step s = .next t ∧ t.req
              = { op := r.op, vid := r.vid, pid := r.pid, ifidx := r.ifidx, offset := r.offset, length := r.length
                  bulk := r.bulk, bestEffort := r.bestEffort
                  timeout := if r.timeout = 0 then none else some r.timeout, data := r.data })

/-- A reserved op code is accepted in every state that accepts requests, changes nothing and answers ReservedOp
(30_encoding.md R102); the record it came in is within the bounds of R100. That the record stays on the port is the model's
choice (log 16). The working registers
keep their values, which is the model's choice outside an operation (log 26). -/
def Obligations.ReservedOpAnswered : Prop :=
  ∀ (s : State) (r : Request) (rest : List Input),
    12 ≤ r.op.toNat → r.data.length < 2 ^ 32 → s.phase = .idle → s.responsePending = false → seqAccepts s.seq = true →
      s.inbox = .request r :: rest →
        step s = .next
          { s with
            inbox := rest
            port := r
            response := some (.err (.invalidRequest .reservedOp))
            responsePending := true }

/-! ### Lifecycle and queries -/

/-- ATTACH is accepted in Unattached: the request registers are latched, with what the port holds in the fields ATTACH
does not use (10_state.md R46), and the sequencer enters Identifying (R192). The working registers
keep their values, which is the model's choice outside an operation (log 26). -/
def Obligations.AttachAccepted : Prop :=
  ∀ (s : State) (vid pid : BitVec 16) (ifidx : BitVec 8), s.seq = .unattached → s.responsePending = false →
    exec (.attach vid pid ifidx) s = .next
      { s with
        seq := .identifying
        phase := .openLink
        req := { latched s.port with op := 0x0, vid := vid, pid := pid, ifidx := ifidx }
        response := none
        mutated := false }

/-- An accepted ATTACH whose Open and RDID succeed on an idle chip that the registry knows ends in Ready four steps later,
with exactly the primitives of R192 on the wire and the clock of R192: the device's maximum, or the cap where that is
lower. -/
def Obligations.AttachSucceeds : Prop :=
  ∀ (s : State) (c0 c1 : Choice) (rest : List Choice) (d : Descriptor),
    s.phase = .openLink → s.seq = .identifying → s.desc = none → s.oracle = c0 :: c1 :: rest →
      c0.openFails = false → c0.busy = false → c1.xferFails = false →
        resolve s.params.registry [c0.id0, c0.id1, c0.id2] = some d →
          ∃ t clk, afterSteps 4 s = some t
            ∧ (s.params.clockCapHz = none → clk = d.maxClockHz)
            ∧ (∀ cap, s.params.clockCapHz = some cap → clk = min d.maxClockHz cap)
            ∧ t.seq = .ready ∧ t.handle = .open ∧ t.desc = some d
            ∧ t.clockHz = some clk ∧ t.lockStatus = .unknown ∧ t.lastStatus = none
            ∧ t.response = some (.ok .empty) ∧ t.responsePending = true
            ∧ t.wire
                = [.setClock clk, .xfer .rdid [0x9F] 3 (some [c0.id0, c0.id1, c0.id2]),
                    .setClock s.params.identClockHz, .open s.req.vid s.req.pid s.req.ifidx true] ++ s.wire

/-- Every failure exit of ATTACH leaves no link open (42_session_control.md R192, R200): a failed Open ends it at once; a
failed RDID or an unknown identification code leads to Close; and that Close restores `handle`, `clock_hz` and
Unattached and answers the error. -/
def Obligations.AttachFailureClosesLink : Prop :=
  (∀ s : State, s.phase = .openLink → s.seq = .identifying → s.handle = .none → (nextChoice s).openFails = true →
      ∃ t, step s = .next t ∧ t.handle = .none ∧ t.seq = .unattached ∧ t.clockHz = s.clockHz
        ∧ t.response = some (.err (.transportError .open none))
        ∧ t.wire = .open s.req.vid s.req.pid s.req.ifidx false :: s.wire)
    ∧ (∀ s : State, s.phase = .identify → s.handle = .open → (nextChoice s).xferFails = true →
        ∃ t, step s = .next t ∧ t.phase = .closeLink (.transportError .exchange none) ∧ t.seq = s.seq)
    ∧ (∀ s : State, s.phase = .identify → s.handle = .open → (nextChoice s).xferFails = false →
        resolve s.params.registry (exchangeReply (nextChoice s) .rdid s) = none →
        ∃ t, step s = .next t ∧ t.seq = s.seq
          ∧ t.phase = .closeLink (.unknownDevice (exchangeReply (nextChoice s) .rdid s)))
    ∧ (∀ (s : State) (e : ErrorRecord), s.phase = .closeLink e → s.seq = .identifying →
        ∃ t, step s = .next t ∧ t.handle = .none ∧ t.seq = .unattached ∧ t.clockHz = none ∧ t.desc = s.desc
          ∧ t.response = some (.err e) ∧ t.responsePending = true ∧ t.wire = .close :: s.wire)

/-- RELEASE closes the link if there is one, ends in Released and answers Ok; from then on every request is answered
WrongState (42_session_control.md R193). The working registers
keep their values, which is the model's choice outside an operation (log 26). -/
def Obligations.ReleaseEndsSession : Prop :=
  (∀ s : State, s.seq = .ready → s.responsePending = false →
      exec .release s = .next
        { s with
          seq := .released, handle := .none, wire := .close :: s.wire, phase := .idle
          req := { latched s.port with op := 0x1 }, mutated := false
          response := some (.ok .empty), responsePending := true })
    ∧ (∀ s : State, s.seq = .unattached → s.responsePending = false →
      exec .release s = .next
        { s with
          seq := .released, phase := .idle, req := { latched s.port with op := 0x1 }, mutated := false
          response := some (.ok .empty), responsePending := true })
    ∧ (∀ (i : Instr) (s : State), acceptedIn i ≠ none → s.seq = .released → s.responsePending = false →
      ∃ t, exec i s = .next t ∧ t.seq = .released ∧ t.wire = s.wire
        ∧ t.response = some (.err (.invalidRequest .wrongState)))

/-- SIZE, NAME, FREQUENCY and FLAGS in Ready answer the descriptor's size and name, the configured clock and the three
capability bits, write nothing else and send no frame (42_session_control.md R194-R197). The working registers
keep their values, which is the model's choice outside an operation (log 26). -/
def Obligations.QueriesAnswer : Prop :=
  ∀ (s : State) (d : Descriptor), readyWith d s →
    (∀ (i : Instr) (op : BitVec 4) (v : Value), (i, op, v) ∈ [(.size, 0x2, .size d.size), (.name, 0x3, .name d.name),
        (.frequency, 0x4, .clock s.clockHz), (.flags, 0x5, .flags (flagsValue d))] →
      exec i s = .next
        { s with
          phase := .idle, req := { latched s.port with op := op }, mutated := false
          response := some (.ok v), responsePending := true })
      ∧ (flagsValue d).getLsbD 0 = d.supportsBulk ∧ (flagsValue d).getLsbD 1 = d.supportsLock
      ∧ (flagsValue d).getLsbD 2 = d.slowProgram

/-- STATUS in Ready sends exactly one read-status frame, never polls, answers its byte and records it; a TransportError
leaves `last_status` unchanged (42_session_control.md R198, 10_state.md R45). -/
def Obligations.StatusReadsOnce : Prop :=
  ∀ (s : State) (d : Descriptor), readyWith d s →
    ((nextChoice s).xferFails = false →
      ∃ t b, exec .status s = .next t ∧ exchangeReply (nextChoice s) .rdsr s = [b]
        ∧ t.seq = .ready ∧ t.response = some (.ok (.status b)) ∧ t.responsePending = true
        ∧ t.lastStatus = some b ∧ t.lockStatus = (if b &&& d.bpMask = 0 then .unlocked else .locked)
        ∧ t.wire = .xfer .rdsr [0x05] 1 (some [b]) :: s.wire)
      ∧ ((nextChoice s).xferFails = true →
      ∃ t, exec .status s = .next t
        ∧ t.seq = .ready ∧ t.response = some (.err (.transportError .exchange none)) ∧ t.responsePending = true
        ∧ t.lastStatus = s.lastStatus ∧ t.lockStatus = s.lockStatus
        ∧ t.wire = .xfer .rdsr [0x05] 1 none :: s.wire)

/-- SET_TIMEOUT in Unattached or Ready writes the poll budget, 0 meaning UNBOUNDED, and nothing else, and sends no frame
(42_session_control.md R199). The working registers
keep their values, which is the model's choice outside an operation (log 26). -/
def Obligations.SetTimeoutWritesBudget : Prop :=
  ∀ (s : State) (v : BitVec 32), s.seq = .unattached ∨ s.seq = .ready → s.responsePending = false →
    exec (.setTimeout v) s = .next
      { s with
        timeoutPolls := if v = 0 then none else some v.toNat
        phase := .idle, mutated := false
        req := { latched s.port with op := 0x7, timeout := if v = 0 then none else some v }
        response := some (.ok .empty), responsePending := true }

/-! ### Storage requests: the checks before any transport primitive -/

/-- UNLOCK in Ready: UnsupportedOperation without any I/O on a device without the lock capability, else Programming and
the first WaitReady with its count at 0 (43_session_storage.md R221, 60_exceptions.md R286). That `done` is 0 from here on
is the model's choice (log 4).
That the other working registers keep their values is the model's choice too (log 26). -/
def Obligations.UnlockBegins : Prop :=
  ∀ (s : State) (d : Descriptor), readyWith d s →
    exec .unlock s = .next
      (if d.supportsLock then
        { s with
          seq := .programming, phase := .waitIdle .unlock, polls := 0, done := 0
          req := { latched s.port with op := 0x8 }, response := none, mutated := false }
      else
        { s with
          phase := .idle, req := { latched s.port with op := 0x8 }, mutated := false
          response := some (.err (.unsupportedOperation .lock)), responsePending := true })

/-- ERASE in Ready, check by check in the order of 60_exceptions.md R289: Bounds, then Alignment unless best-effort, then
nothing to erase, else Erasing with one bulk erase exactly where R224 says so (43_session_storage.md R222-R224); a request
of length 0 that passes the checks answers Ok((o, o)) (R223). That `done` is 0 from here on is the model's choice
(log 4).
That the other working registers keep their values is the model's choice too (log 26). -/
def Obligations.EraseChecksThenBegins : Prop :=
  ∀ (s : State) (d : Descriptor) (o n : BitVec 32) (bulk bestEffort : Bool), readyWith d s →
    (exec (.erase o n bulk bestEffort) s = .next
      (let a := { s with
          req := { latched s.port with op := 0x9, offset := o, length := n, bulk := bulk, bestEffort := bestEffort }
          response := none, mutated := false }
      let answer (r : Response) := { a with phase := .idle, response := some r, responsePending := true }
      if d.size < o.toNat + n.toNat then answer (.err (.rangeError .bounds))
      else if bestEffort = false ∧ (o.toNat % d.sectorSize ≠ 0 ∨ n.toNat % d.sectorSize ≠ 0) then
        answer (.err (.rangeError .alignment))
      else if (effectiveRange d.sectorSize o.toNat n.toNat bestEffort).1
          = (effectiveRange d.sectorSize o.toNat n.toNat bestEffort).2 then
        answer (.ok (.range (effectiveRange d.sectorSize o.toNat n.toNat bestEffort).1
          (effectiveRange d.sectorSize o.toNat n.toNat bestEffort).2))
      else
        { a with
          seq := .erasing, polls := 0, done := 0
          phase := .waitIdle
            (if bulk = true ∧ d.supportsBulk = true ∧ o.toNat = 0 ∧ n.toNat = d.size then .eraseBulk
             else .eraseSectors) }))
      ∧ (n.toNat = 0 → o.toNat ≤ d.size → bestEffort = true ∨ o.toNat % d.sectorSize = 0 →
          ∃ t, exec (.erase o n bulk bestEffort) s = .next t ∧ t.response = some (.ok (.range o.toNat o.toNat))
            ∧ t.seq = .ready ∧ t.wire = s.wire ∧ t.chip = s.chip)

/-- READ in Ready: Bounds, then nothing to read, else Reading with nothing read yet (43_session_storage.md R225). That
the other working registers keep their values is the model's choice (log 26). -/
def Obligations.ReadChecksThenBegins : Prop :=
  ∀ (s : State) (d : Descriptor) (o n : BitVec 32), readyWith d s →
    exec (.read o n) s = .next
      (let a := { s with
          req := { latched s.port with op := 0xA, offset := o, length := n }, response := none, mutated := false }
      let answer (r : Response) := { a with phase := .idle, response := some r, responsePending := true }
      if d.size < o.toNat + n.toNat then answer (.err (.rangeError .bounds))
      else if n.toNat = 0 then answer (.ok (.data []))
      else { a with seq := .reading, phase := .readData, acc := [], addr := o.toNat })

/-- WRITE in Ready: Bounds, then nothing to write, else Programming and the first WaitReady (43_session_storage.md
R227). That `done` is 0 from here on is the model's choice (log 4).
That the other working registers keep their values is the model's choice too (log 26). -/
def Obligations.WriteChecksThenBegins : Prop :=
  ∀ (s : State) (d : Descriptor) (o : BitVec 32) (data : List Byte), readyWith d s →
    exec (.write o data) s = .next
      (let a := { s with
          req := { latched s.port with op := 0xB, offset := o, data := data }, response := none, mutated := false }
      let answer (r : Response) := { a with phase := .idle, response := some r, responsePending := true }
      if d.size < o.toNat + data.length then answer (.err (.rangeError .bounds))
      else if data.length = 0 then answer (.ok (.count 0))
      else { a with seq := .programming, phase := .waitIdle .write, polls := 0, done := 0 })

/-- A READ, WRITE or ERASE fails with RangeError(Bounds), no transport primitive made and the chip untouched, exactly when
`offset + length > size`; one of length 0 at `offset = size` passes and does nothing (20_memory.md R73). -/
def Obligations.BoundsErrorExactlyOutOfRange : Prop :=
  ∀ (s : State) (d : Descriptor) (i : Instr) (o n : Nat), readyWith d s →
    ((∃ o' n' b e, i = .erase o' n' b e ∧ o = o'.toNat ∧ n = n'.toNat)
        ∨ (∃ o' n', i = .read o' n' ∧ o = o'.toNat ∧ n = n'.toNat)
        ∨ (∃ o' data, i = .write o' data ∧ o = o'.toNat ∧ n = data.length)) →
      ∃ t, exec i s = .next t ∧ t.wire = s.wire ∧ t.chip = s.chip
        ∧ (t.response = some (.err (.rangeError .bounds)) ↔ ¬ o + n ≤ d.size)
        ∧ (n = 0 → o = d.size → d.size % d.sectorSize = 0 → t.seq = .ready ∧ ∃ v, t.response = some (.ok v))

/-! ### The commands of the codec and what the chip does on them -/

/-- RDID is the frame `9F` with three response bytes (41_codec.md R152). The chip, one the registry knows or one it does not,
answers its identification code, or drawn bytes while it stays busy, and is unchanged but for a busy command that completes
right before (R263, log 19) (44_flash_device_model.md R252, R267): driven
directly, or over the link before there is a descriptor (10_state.md R35) or with the chip's own. In an ATTACH a code the
registry does not know is the one UnknownDevice reports (60_exceptions.md R281). That a chip the registry does not describe
answers RDID alone is the model's choice (log 5). -/
def Obligations.RdidReturnsCode : Prop :=
  ∀ s : State, s.chip.id.length = 3 →
    (s.handle = .open → (s.desc = none ∨ s.desc = s.chip.geom) ∧ (nextChoice s).xferFails = false) →
      ∃ t r, exec .rdid s = .next t ∧ t.chip = chipSettle (nextChoice s) s.chip
        ∧ (s.chip.busy = false ∨ (nextChoice s).completes = true → r = s.chip.id)
        ∧ (s.chip.busy = true → (nextChoice s).completes = false → r = [0, 1, 2].map (Config.freeByte (nextChoice s).epoch))
        ∧ (s.handle = .open → t.wire = .xfer .rdid [0x9F] 3 (some r) :: s.wire)
        ∧ (s.handle = .none → t.probeReply = r ∧ t.wire = s.wire)
        ∧ (s.handle = .open → s.phase = .identify → resolve s.params.registry r = none →
            t.phase = .closeLink (.unknownDevice r))

/-- RDSR, busy or not, returns a byte with bit 0 = busy and the protect bits of the chip, changing nothing in it
(44_flash_device_model.md R253), where a busy command that completes right before the frame has cleared busy already (R263,
at that moment by the model's choice, log 19); the frame is `05` with one response byte; and outside WaitReady an attached block
records it (41_codec.md R153, 10_state.md R45). -/
def Obligations.RdsrReturnsStatus : Prop :=
  ∀ (s : State) (g : Descriptor), reachesChip g s → g.bpMask &&& 1 = 0 →
    ∃ t b, exec .rdsr s = .next t ∧ t.chip = chipSettle (nextChoice s) s.chip
      ∧ b.getLsbD 0 = (s.chip.busy && !(nextChoice s).completes) ∧ b &&& g.bpMask = s.chip.bp &&& g.bpMask
      ∧ (s.handle = .none → t.probeReply = [b] ∧ t.wire = s.wire ∧ t.lastStatus = s.lastStatus)
      ∧ (s.handle = .open → t.wire = .xfer .rdsr [0x05] 1 (some [b]) :: s.wire)
      ∧ (s.handle = .open → s.phase = .idle →
          t.lastStatus = some b ∧ t.lockStatus = (if b &&& g.bpMask = 0 then .unlocked else .locked))

/-- WREN sets the latch and WRDI clears it, and neither changes anything else in an idle chip; each is one byte, the
descriptor's opcode (41_codec.md R154, R155, 44_flash_device_model.md R254, R255). -/
def Obligations.WrenSetsWrdiClearsLatch : Prop :=
  ∀ (s : State) (g : Descriptor), reachesIdle g s →
    (∃ t, exec .wren s = .next t ∧ t.chip = { s.chip with wel := true }
        ∧ (s.handle = .open → t.wire = .xfer .wren [g.ops.wren] 0 (some []) :: s.wire))
      ∧ (∃ t, exec .wrdi s = .next t ∧ t.chip = { s.chip with wel := false }
        ∧ (s.handle = .open → t.wire = .xfer .wrdi [g.ops.wrdi] 0 (some []) :: s.wire))

/-- WRSR on an idle chip with the latch set writes the protect bits and starts a busy period, unless the chip refuses it
for vendor reasons, which leaves `bp` unchanged (44_flash_device_model.md R256); the frame is the opcode and the value
(41_codec.md R156). -/
def Obligations.WrsrWritesProtectBits : Prop :=
  ∀ (s : State) (g : Descriptor) (v : Byte), reachesIdle g s → s.chip.wel = true →
    ∃ t, exec (.wrsr v) s = .next t
      ∧ ((nextChoice s).refuses = false → t.chip = { s.chip with bp := v &&& g.bpMask, busy := true })
      ∧ ((nextChoice s).refuses = true → t.chip.bp = s.chip.bp ∧ t.chip.mem = s.chip.mem)
      ∧ (s.handle = .open → t.wire = .xfer (.wrsr v) [g.ops.wrsr, v] 0 (some []) :: s.wire)

/-- SE on an idle chip with the latch set and no protected byte in the sector sets every byte of that sector to 0xFF,
every other byte unchanged, and starts a busy period (44_flash_device_model.md R257); a protected sector leaves the
array unchanged; the frame is the opcode and the address (41_codec.md R157). A sector that does not lie inside the array
leaves every protected byte unchanged (R265); that all else is open then is the model's choice (log 13). -/
def Obligations.SeErasesSector : Prop :=
  (∀ (s : State) (g : Descriptor) (a : FlashAddr), reachesIdle g s → MemoryInv s → s.chip.wel = true →
    a.toNat / g.sectorSize * g.sectorSize + g.sectorSize ≤ g.size →
      ∃ t, exec (.se a) s = .next t
        ∧ ((∀ x, a.toNat / g.sectorSize * g.sectorSize ≤ x →
              x < a.toNat / g.sectorSize * g.sectorSize + g.sectorSize → protectedByte g s.chip x = false) →
            t.chip.busy = true
              ∧ ∀ x, chipByte t.chip x
                  = if a.toNat / g.sectorSize * g.sectorSize ≤ x
                      ∧ x < a.toNat / g.sectorSize * g.sectorSize + g.sectorSize then 0xFF else chipByte s.chip x)
        ∧ ((∃ x, a.toNat / g.sectorSize * g.sectorSize ≤ x
              ∧ x < a.toNat / g.sectorSize * g.sectorSize + g.sectorSize ∧ protectedByte g s.chip x = true) →
            t.chip.mem = s.chip.mem ∧ t.chip.busy = false)
        ∧ (s.handle = .open → t.wire = .xfer (.se a) (g.ops.se :: addr3 a) 0 (some []) :: s.wire))
    ∧ ∀ (s : State) (g : Descriptor) (a : FlashAddr), reachesIdle g s → s.chip.wel = true →
      ¬ a.toNat / g.sectorSize * g.sectorSize + g.sectorSize ≤ g.size →
        ∃ t, exec (.se a) s = .next t ∧ t.chip = chipUnprotectedOpen (nextChoice s) g s.chip
          ∧ ∀ x, x < g.size → protectedByte g s.chip x = true → chipByte t.chip x = chipByte s.chip x

/-- BE on an idle chip with the latch set and no protect bit sets every byte of the array to 0xFF, every other byte
unchanged, and starts a busy period; a protect bit leaves the array unchanged (44_flash_device_model.md R258, 41_codec.md
R158). -/
def Obligations.BeErasesChip : Prop :=
  ∀ (s : State) (g : Descriptor), reachesIdle g s → MemoryInv s → s.chip.wel = true →
    ∃ t, exec .be s = .next t
      ∧ (s.chip.bp &&& g.bpMask = 0 → t.chip.busy = true
          ∧ ∀ x, chipByte t.chip x = if x < g.size then 0xFF else chipByte s.chip x)
      ∧ (s.chip.bp &&& g.bpMask ≠ 0 → t.chip.mem = s.chip.mem ∧ t.chip.busy = false)
      ∧ (s.handle = .open → t.wire = .xfer .be [g.ops.be] 0 (some []) :: s.wire)

/-- PP of `data` at `a` on an idle chip with the latch set and no protected byte in the page: byte `i` is ANDed into
address `base + ((a mod P) + i) mod P`, every other byte is unchanged, and a busy period starts
(44_flash_device_model.md R259); the frame is the opcode, the address and the payload (41_codec.md R159). A payload longer
than the page changes bytes of the page alone, none of them protected, and only clears bits (R259, R265,
93_implementation_defined.md U4). A page that does not lie inside the array, or a payload of no byte, leaves every protected
byte unchanged (R265). That a protected page refuses a payload that fits, and that all else is open in those last two cases,
is the model's choice (logs 18 and 13). -/
def Obligations.PpAndsIntoPage : Prop :=
  (∀ (s : State) (g : Descriptor) (a : FlashAddr) (data : List Byte), reachesIdle g s → MemoryInv s →
    s.chip.wel = true → 1 ≤ data.length → data.length ≤ g.pageSize →
      a.toNat / g.pageSize * g.pageSize + g.pageSize ≤ g.size →
        (∀ x, a.toNat / g.pageSize * g.pageSize ≤ x → x < a.toNat / g.pageSize * g.pageSize + g.pageSize →
          protectedByte g s.chip x = false) →
        ∃ t, exec (.pp a data) s = .next t ∧ t.chip.busy = true
          ∧ (∀ (i : Nat) (b : Byte), data[i]? = some b →
              chipByte t.chip (a.toNat / g.pageSize * g.pageSize + (a.toNat % g.pageSize + i) % g.pageSize)
                = chipByte s.chip (a.toNat / g.pageSize * g.pageSize + (a.toNat % g.pageSize + i) % g.pageSize) &&& b)
          ∧ (∀ x, (∀ i, i < data.length →
                x ≠ a.toNat / g.pageSize * g.pageSize + (a.toNat % g.pageSize + i) % g.pageSize) →
              chipByte t.chip x = chipByte s.chip x)
          ∧ (s.handle = .open →
              t.wire = .xfer (.pp a data) (g.ops.pp :: (addr3 a ++ data)) 0 (some []) :: s.wire))
    ∧ (∀ (s : State) (g : Descriptor) (a : FlashAddr) (data : List Byte), reachesIdle g s → MemoryInv s →
      s.chip.wel = true → data ≠ [] → a.toNat / g.pageSize * g.pageSize + g.pageSize ≤ g.size →
        ∃ t, exec (.pp a data) s = .next t
          ∧ (data.length ≤ g.pageSize →
              (∃ x, a.toNat / g.pageSize * g.pageSize ≤ x ∧ x < a.toNat / g.pageSize * g.pageSize + g.pageSize
                ∧ protectedByte g s.chip x = true) →
              t.chip.mem = s.chip.mem ∧ t.chip.busy = false)
          ∧ (g.pageSize < data.length →
              ∀ x, if a.toNat / g.pageSize * g.pageSize ≤ x ∧ x < a.toNat / g.pageSize * g.pageSize + g.pageSize
                  ∧ protectedByte g s.chip x = false
                then chipByte t.chip x &&& chipByte s.chip x = chipByte t.chip x
                else chipByte t.chip x = chipByte s.chip x))
    ∧ ∀ (s : State) (g : Descriptor) (a : FlashAddr) (data : List Byte), reachesIdle g s → s.chip.wel = true →
      data = [] ∨ ¬ a.toNat / g.pageSize * g.pageSize + g.pageSize ≤ g.size →
        ∃ t, exec (.pp a data) s = .next t ∧ t.chip = chipUnprotectedOpen (nextChoice s) g s.chip
          ∧ ∀ x, x < g.size → protectedByte g s.chip x = true → chipByte t.chip x = chipByte s.chip x

/-- READ_DATA of `k` bytes at `a` on an idle chip, or one that completes right before (R263, log 19), returns exactly `k` bytes, byte `i` the array's byte at `a + i` where that
lies inside the array and a drawn one at or past its end, and changes nothing in the chip (41_codec.md R160,
44_flash_device_model.md R260); on a chip that stays busy it returns `k` drawn bytes and changes nothing in the chip
(R267). -/
def Obligations.ReadDataReturnsArray : Prop :=
  (∀ (s : State) (g : Descriptor) (a : FlashAddr) (k : Nat), reachesChip g s →
      (chipSettle (nextChoice s) s.chip).busy = false →
    ∃ t r, exec (.readData a k) s = .next t ∧ t.chip = chipSettle (nextChoice s) s.chip ∧ r.length = k
      ∧ (∀ i, i < k → a.toNat + i < g.size → r[i]? = some (chipByte s.chip (a.toNat + i)))
      ∧ (∀ i, i < k → g.size ≤ a.toNat + i → r[i]? = some (Config.freeByte (nextChoice s).epoch i))
      ∧ (s.handle = .open → t.wire = .xfer (.readData a k) (g.ops.read :: addr3 a) k (some r) :: s.wire)
      ∧ (s.handle = .none → t.probeReply = r ∧ t.wire = s.wire))
    ∧ ∀ (s : State) (g : Descriptor) (a : FlashAddr) (k : Nat), reachesChip g s → s.chip.busy = true →
      (nextChoice s).completes = false →
        ∃ t, exec (.readData a k) s = .next t ∧ t.chip = s.chip
          ∧ (s.handle = .open →
              t.wire = .xfer (.readData a k) (g.ops.read :: addr3 a) k
                (some ((List.range k).map (Config.freeByte (nextChoice s).epoch))) :: s.wire)
          ∧ (s.handle = .none →
              t.probeReply = (List.range k).map (Config.freeByte (nextChoice s).epoch) ∧ t.wire = s.wire)

/-- A mutating command that an idle chip receives without its latch changes no chip state and produces no error
(44_flash_device_model.md R261); a busy command that completes clears busy and the latch at once and changes nothing else
in the chip (R262), whether in a step of its own or right before a frame. At which of those moments it completes (R263) is
the model's choice (logs 19 and 23). -/
def Obligations.LatchGatesAndClears : Prop :=
  (∀ (s : State) (g : Descriptor) (cmd : Command), reachesIdle g s → s.chip.wel = false → commandMutates cmd = true →
      ∃ t, exec (commandInstr cmd) s = .next t ∧ t.chip = s.chip ∧ t.response = s.response)
    ∧ (∀ s : State, s.phase = .idle → s.responsePending = false → s.inbox = [] → s.chip.busy = true →
      (nextChoice s).completes = true →
        ∃ t, step s = .next t ∧ t.chip = { s.chip with busy := false, wel := false })
    ∧ (∀ (s : State) (g : Descriptor) (cmd : Command), reachesChip g s → s.chip.busy = true →
      (nextChoice s).completes = true →
        ∃ t, exec (commandInstr cmd) s = .next t
          ∧ t.chip = { s.chip with busy := false, wel := decide (cmd = .wren) })

/-- After a frame whose exchange failed, the chip differs from before only as 44_flash_device_model.md R266 allows: not at all
for RDID, RDSR and READ_DATA, on an idle chip or a busy one, with no descriptor yet (10_state.md R35) or the chip's own, but
for a busy command that completes right before (R263, log 19); on an idle chip the latch for WREN and WRDI; no array byte for
WRSR; for SE, BE and PP the latch, busy and bytes of the sector, chip or page, each erased (SE, BE) or with only set bits
cleared. Where the sector or page does not lie inside the array the spec states no more than that protected bytes stay
(R265), and that all else is open is the model's choice (log 13). -/
def Obligations.FailedExchangeIsBounded : Prop :=
  (∀ (s : State) (cmd : Command), s.handle = .open → s.desc = none ∨ s.desc = s.chip.geom →
    (nextChoice s).xferFails = true → (cmd = .rdid ∨ cmd = .rdsr ∨ ∃ a k, cmd = .readData a k) →
      ∃ t, exec (commandInstr cmd) s = .next t ∧ t.chip = chipSettle (nextChoice s) s.chip
        ∧ t.wire = .xfer cmd (encodeFrame (opcodesOf s) cmd) (responseLength cmd) none :: s.wire)
    ∧ ∀ (s : State) (g : Descriptor) (cmd : Command), s.handle = .open → s.desc = some g → s.chip.geom = some g →
    s.chip.busy = false → MemoryInv s → (nextChoice s).xferFails = true →
      ∃ t, exec (commandInstr cmd) s = .next t
        ∧ t.wire = .xfer cmd (encodeFrame g.ops cmd) (responseLength cmd) none :: s.wire
        ∧ (cmd = .wren ∨ cmd = .wrdi → t.chip = { s.chip with wel := t.chip.wel })
        ∧ (∀ v, cmd = .wrsr v → t.chip = { s.chip with bp := t.chip.bp, wel := t.chip.wel, busy := t.chip.busy })
        ∧ (∀ a, cmd = .se a → a.toNat / g.sectorSize * g.sectorSize + g.sectorSize ≤ g.size →
            t.chip.id = s.chip.id ∧ t.chip.bp = s.chip.bp ∧ ∀ x, if a.toNat / g.sectorSize * g.sectorSize ≤ x
                ∧ x < a.toNat / g.sectorSize * g.sectorSize + g.sectorSize
              then chipByte t.chip x = 0xFF ∨ chipByte t.chip x &&& chipByte s.chip x = chipByte t.chip x
              else chipByte t.chip x = chipByte s.chip x)
        ∧ (cmd = .be →
            t.chip.id = s.chip.id ∧ t.chip.bp = s.chip.bp ∧ ∀ x, if x < g.size
              then chipByte t.chip x = 0xFF ∨ chipByte t.chip x &&& chipByte s.chip x = chipByte t.chip x
              else chipByte t.chip x = chipByte s.chip x)
        ∧ (∀ a data, cmd = .pp a data → a.toNat / g.pageSize * g.pageSize + g.pageSize ≤ g.size →
            t.chip.id = s.chip.id ∧ t.chip.bp = s.chip.bp ∧ ∀ x, if a.toNat / g.pageSize * g.pageSize ≤ x
                ∧ x < a.toNat / g.pageSize * g.pageSize + g.pageSize
              then chipByte t.chip x &&& chipByte s.chip x = chipByte t.chip x
              else chipByte t.chip x = chipByte s.chip x)
        ∧ ((∃ a, cmd = .se a ∧ ¬ a.toNat / g.sectorSize * g.sectorSize + g.sectorSize ≤ g.size)
              ∨ (∃ a data, cmd = .pp a data ∧ ¬ a.toNat / g.pageSize * g.pageSize + g.pageSize ≤ g.size) →
            t.chip = chipUnprotectedOpen (nextChoice s) g s.chip
              ∧ ∀ x, x < g.size → protectedByte g s.chip x = true → chipByte t.chip x = chipByte s.chip x)

/-! ### Frames: what instructions leave unchanged -/

/-- The frame of the one step in which a request is accepted, held or refused: `exec` of the request. That an operation is cut
so is the model's reading (log 4): what ATTACH, UNLOCK, ERASE, READ and WRITE do later, such as the writes of `handle`, `desc`
and the clock by ATTACH and those of the array by ERASE and WRITE, are the steps of their commands. In the accepting step the
parameters, the descriptor, the clock and what the caller was delivered are unchanged by every request; the flash array too,
where the session's descriptor is that of the chip (only STATUS needs this, 44_flash_device_model.md R250); only STATUS
reaches the chip or writes the status registers; only RELEASE writes `handle`; only RELEASE and STATUS put anything on the
wire; only SET_TIMEOUT writes the poll budget; `addr` and `acc` are written by READ alone, `done` and `polls` by the start of
UNLOCK, ERASE and WRITE alone, `cur` by none; the queries and SET_TIMEOUT leave `seq` where it was (42_session_control.md
R192-R199, 43_session_storage.md R221-R227). That the working registers keep their values outside an operation, where R47
leaves them unspecified, is the model's choice (log 26), and so is that the record stays on the port (log 16). -/
def Obligations.RequestFrame : Prop :=
  ∀ (i : Instr) (s t : State), acceptedIn i ≠ none → exec i s = .next t →
    t.params = s.params ∧ t.desc = s.desc ∧ t.clockHz = s.clockHz ∧ t.delivered = s.delivered ∧ t.port = s.port
      ∧ t.probeReply = s.probeReply ∧ t.cur = s.cur
      ∧ (i ≠ .release → t.handle = s.handle)
      ∧ ((∀ v, i ≠ .setTimeout v) → t.timeoutPolls = s.timeoutPolls)
      ∧ (i ≠ .release → i ≠ .status → t.wire = s.wire)
      ∧ (i ≠ .status → t.chip = s.chip ∧ t.lastStatus = s.lastStatus ∧ t.lockStatus = s.lockStatus
          ∧ t.oracle = s.oracle ∧ t.draws = s.draws)
      ∧ ((∀ o n, i ≠ .read o n) → t.addr = s.addr ∧ t.acc = s.acc)
      ∧ ((∀ o n b e, i ≠ .erase o n b e) → (∀ o data, i ≠ .write o data) → i ≠ .unlock →
          t.done = s.done ∧ t.polls = s.polls)
      ∧ (i ∈ [.size, .name, .frequency, .flags, .status] ∨ (∃ v, i = .setTimeout v) → t.seq = s.seq)
      ∧ (mismatched s = false → ∀ x, chipByte t.chip x = chipByte s.chip x)

/-- The frame of the nine commands: the parameters, the request registers, the descriptor, the poll budget, `handle`,
the clock and the caller's side are unchanged by every one; driven directly they put nothing on the block's wire, sent over
the link they leave the direct reply alone; driven directly, or sent with no operation in flight, they leave every other
register of the block unchanged too, but for the status registers, which only RDSR writes (41_codec.md R151-R160,
10_state.md R45). That a command may be issued so, outside an operation, is the model's choice (log 8), and so is that
the working registers, which 10_state.md R47 leaves unspecified there, keep their values (log 26). -/
def Obligations.CommandFrame : Prop :=
  ∀ (cmd : Command) (s t : State), exec (commandInstr cmd) s = .next t →
    t.params = s.params ∧ t.req = s.req ∧ t.desc = s.desc ∧ t.timeoutPolls = s.timeoutPolls
      ∧ t.handle = s.handle ∧ t.clockHz = s.clockHz ∧ t.inbox = s.inbox ∧ t.delivered = s.delivered ∧ t.port = s.port
      ∧ (s.handle = .none → t.wire = s.wire) ∧ (s.handle = .open → t.probeReply = s.probeReply)
      ∧ (s.handle = .none ∨ s.phase = .idle →
          t.seq = s.seq ∧ t.phase = s.phase ∧ t.addr = s.addr ∧ t.done = s.done ∧ t.polls = s.polls ∧ t.cur = s.cur
            ∧ t.acc = s.acc ∧ t.mutated = s.mutated ∧ t.response = s.response
            ∧ t.responsePending = s.responsePending
            ∧ (s.handle = .none ∨ cmd ≠ .rdsr → t.lastStatus = s.lastStatus ∧ t.lockStatus = s.lockStatus))

/-- The chip's frame of the commands that reach an idle chip: RDID, RDSR and READ_DATA change nothing in it; WREN and WRDI
nothing but the latch; WRSR no array byte and not the code; SE changes no byte outside the sector of its address, BE none
outside the array, PP none outside the page of its address, and none of the three the code or the protect bits
(44_flash_device_model.md R252-R260). -/
def Obligations.CommandChipFrame : Prop :=
  ∀ (cmd : Command) (s : State) (g : Descriptor), reachesIdle g s → MemoryInv s →
    ∃ t, exec (commandInstr cmd) s = .next t
      ∧ match cmd with
        | .rdid | .rdsr | .readData _ _ => t.chip = s.chip
        | .wren | .wrdi => t.chip = { s.chip with wel := t.chip.wel }
        | .wrsr _ => t.chip.id = s.chip.id ∧ ∀ x, chipByte t.chip x = chipByte s.chip x
        | .se a => a.toNat / g.sectorSize * g.sectorSize + g.sectorSize ≤ g.size →
            t.chip.id = s.chip.id ∧ t.chip.bp = s.chip.bp
              ∧ ∀ x, x < a.toNat / g.sectorSize * g.sectorSize
                    ∨ a.toNat / g.sectorSize * g.sectorSize + g.sectorSize ≤ x →
                  chipByte t.chip x = chipByte s.chip x
        | .be => t.chip.id = s.chip.id ∧ t.chip.bp = s.chip.bp ∧ ∀ x, g.size ≤ x → chipByte t.chip x = chipByte s.chip x
        | .pp a data => data ≠ [] → a.toNat / g.pageSize * g.pageSize + g.pageSize ≤ g.size →
            t.chip.id = s.chip.id ∧ t.chip.bp = s.chip.bp
              ∧ ∀ x, x < a.toNat / g.pageSize * g.pageSize ∨ a.toNat / g.pageSize * g.pageSize + g.pageSize ≤ x →
                  chipByte t.chip x = chipByte s.chip x

/-! ### WaitReady -/

/-- A busy status read keeps WaitReady polling: one more busy read counted, the byte recorded, the same position, as long
as the budget is unbounded or not yet reached (41_codec.md R170). -/
def Obligations.BusyStatusKeepsPolling : Prop :=
  ∀ (s : State) (d : Descriptor) (j : Job), s.phase = .waitIdle j ∨ s.phase = .waitDone j → linkedTo d s →
    d.bpMask &&& 1 = 0 → s.chip.busy = true → (nextChoice s).completes = false →
      (∀ n, s.timeoutPolls = some n → s.polls + 1 < n) →
        ∃ t b, step s = .next t ∧ t.phase = s.phase ∧ t.seq = s.seq ∧ t.polls = s.polls + 1 ∧ b.getLsbD 0 = true
          ∧ t.cur = b ∧ t.lastStatus = some b ∧ t.wire = .xfer .rdsr [0x05] 1 (some [b]) :: s.wire
          ∧ t.chip = s.chip ∧ t.response = s.response

/-- With a budget of N, a WaitReady that starts on a chip that stays busy polls exactly N times and then fails with
Timeout: after m < N reads it is still polling, and after N the response is Timeout, with `committed` for WRITE only,
`last_status` unknown, `seq` Ready, and exactly N read-status frames sent (41_codec.md R171, 60_exceptions.md R285,
R290). That a WRITE which fails in its first WaitReady reports `committed` = 0 is the model's reading (log 17): R285 and R288
give every Timeout of WRITE the field, 95_test_vectors.md section 12, last row, prints it without. -/
def Obligations.TimeoutAfterExactlyBudgetReads : Prop :=
  ∀ (s : State) (d : Descriptor) (j : Job) (N : Nat), s.phase = .waitIdle j ∨ s.phase = .waitDone j →
    s.handle = .open → s.desc = some d → s.chip.geom = some d → d.bpMask &&& 1 = 0 → s.chip.busy = true →
    s.seq = jobSeq j → s.polls = 0 → s.timeoutPolls = some N → 1 ≤ N → N ≤ s.oracle.length →
    (∀ c ∈ s.oracle, c.xferFails = false ∧ c.completes = false) →
      (∀ m, m < N → ∃ t, afterSteps m s = some t ∧ t.phase = s.phase ∧ t.polls = m)
        ∧ ∃ t b, afterSteps N s = some t ∧ b.getLsbD 0 = true
          ∧ t.response = some (.err (.timeout b (if j = .write then some s.done else none)))
          ∧ t.phase = .idle ∧ t.seq = .ready ∧ t.lastStatus = none
          ∧ t.wire.length = s.wire.length + N ∧ ∀ e ∈ t.wire.take N, isStatusRead e = true

/-- The lock decision of ERASE and WRITE (43_session_storage.md R220): the first idle status read, and nothing else,
decides it. With a protect bit set the answer is LockedError with that byte and no write-enable is sent; with none, the
first write-enable comes next, at the start of the effective range or at the offset, with nothing done (R222, R227). The read
is recorded (10_state.md R45, 41_codec.md R153). The chip is idle, or busy with a command that completes right before the read
(44_flash_device_model.md R263, log 19). -/
def Obligations.FreshStatusDecidesLock : Prop :=
  ∀ (s : State) (d : Descriptor) (j : Job), s.phase = .waitIdle j → j ≠ .unlock → s.seq = jobSeq j → linkedTo d s →
    d.bpMask &&& 1 = 0 → (chipSettle (nextChoice s) s.chip).busy = false →
      ∃ t b, step s = .next t ∧ b &&& d.bpMask = s.chip.bp &&& d.bpMask ∧ b.getLsbD 0 = false
        ∧ t.wire = .xfer .rdsr [0x05] 1 (some [b]) :: s.wire ∧ t.chip = chipSettle (nextChoice s) s.chip
        ∧ t.lastStatus = some b ∧ t.cur = b
        ∧ (s.chip.bp &&& d.bpMask ≠ 0 →
            t.response = some (.err (.lockedError b)) ∧ t.seq = .ready ∧ t.phase = .idle ∧ t.lockStatus = .locked)
        ∧ (s.chip.bp &&& d.bpMask = 0 →
            t.phase = .writeEnable j ∧ t.response = s.response ∧ t.lockStatus = .unlocked ∧ t.seq = s.seq
              ∧ (j = .eraseSectors → t.addr = (eraseRange d s.req).1 ∧ t.done = 0)
              ∧ (j = .write → t.addr = s.req.offset.toNat ∧ t.done = 0))

/-- UNLOCK on an idle chip: with no protect bit it answers Ok and sends no mutating command; with one it goes on to write
the status byte it read with the protect bits cleared; and after the write an idle status with a protect bit still set
answers LockedError, one without answers Ok (43_session_storage.md R221, 41_codec.md R156). Each read is recorded (10_state.md
R45, 41_codec.md R153). An idle status is read of an idle
chip, or of a busy one whose command completes right before the read (44_flash_device_model.md R263, log 19). -/
def Obligations.UnlockClearsProtectBits : Prop :=
  ∀ (s : State) (d : Descriptor), s.seq = .programming → linkedTo d s → d.bpMask &&& 1 = 0 →
    (chipSettle (nextChoice s) s.chip).busy = false →
    (s.phase = .waitIdle .unlock →
        ∃ t b, step s = .next t ∧ b &&& d.bpMask = s.chip.bp &&& d.bpMask ∧ b.getLsbD 0 = false
          ∧ t.wire = .xfer .rdsr [0x05] 1 (some [b]) :: s.wire ∧ t.lastStatus = some b ∧ t.cur = b
          ∧ (s.chip.bp &&& d.bpMask = 0 →
              t.response = some (.ok .empty) ∧ t.seq = .ready ∧ t.phase = .idle ∧ t.lockStatus = .unlocked)
          ∧ (s.chip.bp &&& d.bpMask ≠ 0 → t.phase = .writeEnable .unlock ∧ t.seq = s.seq ∧ t.lockStatus = .locked))
      ∧ (s.phase = .mutate .unlock →
        ∃ t, step s = .next t ∧ t.phase = .waitDone .unlock
          ∧ t.wire = .xfer (.wrsr (s.cur &&& ~~~d.bpMask)) [d.ops.wrsr, s.cur &&& ~~~d.bpMask] 0 (some []) :: s.wire)
      ∧ (s.phase = .waitDone .unlock →
        ∃ t b, step s = .next t ∧ b &&& d.bpMask = s.chip.bp &&& d.bpMask ∧ b.getLsbD 0 = false
          ∧ t.wire = .xfer .rdsr [0x05] 1 (some [b]) :: s.wire ∧ t.lastStatus = some b ∧ t.seq = .ready ∧ t.phase = .idle
          ∧ (s.chip.bp &&& d.bpMask = 0 → t.response = some (.ok .empty) ∧ t.lockStatus = .unlocked)
          ∧ (s.chip.bp &&& d.bpMask ≠ 0 → t.response = some (.err (.lockedError b)) ∧ t.lockStatus = .locked))

/-- A mutating command is WREN and then, at once, its frame, which WaitReady follows with its count at 0 (41_codec.md R165,
R166, R167, R172): the frame of each job is the one of 43_session_storage.md R221, R222, R224 and R227. Neither step writes any
other register of the block (R154, R156-R159: none is written); `phase`, `mutated`, the record of the wire and the choices
taken are the model's own (logs 4, 7 and 9). -/
def Obligations.MutatingCommandSequence : Prop :=
  ∀ (s : State) (d : Descriptor) (j : Job), linkedTo d s → s.chip.busy = false →
    (s.phase = .writeEnable j →
        step s = .next
          { s with
            phase := .mutate j, chip := { s.chip with wel := true }
            wire := .xfer .wren [d.ops.wren] 0 (some []) :: s.wire
            oracle := s.oracle.tail, draws := s.draws + 1 })
      ∧ (s.phase = .mutate j →
        ∃ cmd ch, step s = .next
            { s with
              phase := .waitDone j, mutated := true, polls := 0, chip := ch
              wire := .xfer cmd (encodeFrame d.ops cmd) 0 (some []) :: s.wire
              oracle := s.oracle.tail, draws := s.draws + 1 }
          ∧ match j with
            | .unlock => cmd = .wrsr (s.cur &&& ~~~d.bpMask)
            | .eraseBulk => cmd = .be
            | .eraseSectors => cmd = .se (BitVec.ofNat 24 s.addr)
            | .write =>
              cmd = .pp (BitVec.ofNat 24 s.addr)
                ((s.req.data.drop s.done).take
                  (min (s.req.data.length - s.done) (d.pageSize - s.addr % d.pageSize))))

/-- After a mutating frame of ERASE or WRITE, an idle status advances by one sector or one chunk, and the operation goes
on with the next write-enable or answers Ok with the effective range or the byte count (43_session_storage.md R222,
R227); the read is recorded (10_state.md R45, 41_codec.md R153). An idle status is read of an idle chip, or of a busy one whose command completes right before the read
(44_flash_device_model.md R263, log 19). -/
def Obligations.IdleStatusAdvancesJob : Prop :=
  ∀ (s : State) (d : Descriptor), linkedTo d s → d.bpMask &&& 1 = 0 →
    (chipSettle (nextChoice s) s.chip).busy = false →
    ((∃ j, j ≠ .unlock ∧ s.phase = .waitDone j) →
        ∃ t b, step s = .next t ∧ b &&& d.bpMask = s.chip.bp &&& d.bpMask ∧ b.getLsbD 0 = false
          ∧ t.wire = .xfer .rdsr [0x05] 1 (some [b]) :: s.wire ∧ t.chip = chipSettle (nextChoice s) s.chip
          ∧ t.lastStatus = some b ∧ t.cur = b
          ∧ t.lockStatus = (if s.chip.bp &&& d.bpMask = 0 then .unlocked else .locked))
      ∧ (s.phase = .waitDone .eraseSectors → s.seq = .erasing →
        ∃ t, step s = .next t ∧ t.addr = s.addr + d.sectorSize ∧ t.done = s.done + 1
          ∧ (s.addr + d.sectorSize < (eraseRange d s.req).2 →
              t.phase = .writeEnable .eraseSectors ∧ t.seq = .erasing)
          ∧ (¬ s.addr + d.sectorSize < (eraseRange d s.req).2 →
              t.seq = .ready ∧ t.phase = .idle
                ∧ t.response = some (.ok (.range (eraseRange d s.req).1 (eraseRange d s.req).2))))
      ∧ (s.phase = .waitDone .eraseBulk → s.seq = .erasing →
        ∃ t, step s = .next t ∧ t.seq = .ready ∧ t.phase = .idle
          ∧ t.response = some (.ok (.range (eraseRange d s.req).1 (eraseRange d s.req).2)))
      ∧ (s.phase = .waitDone .write → s.seq = .programming →
        ∃ t, step s = .next t
          ∧ t.done = s.done + min (s.req.data.length - s.done) (d.pageSize - s.addr % d.pageSize)
          ∧ t.addr = s.addr + min (s.req.data.length - s.done) (d.pageSize - s.addr % d.pageSize)
          ∧ (t.done < s.req.data.length → t.phase = .writeEnable .write ∧ t.seq = .programming)
          ∧ (¬ t.done < s.req.data.length →
              t.seq = .ready ∧ t.phase = .idle ∧ t.response = some (.ok (.count s.req.data.length))))

/-- The error exit on a failed exchange of UNLOCK, ERASE, READ or WRITE (60_exceptions.md R290, R282): Ready, the link, the
descriptor, the clock, the budget and the lock status kept, `last_status` unknown exactly on or after the first mutating
frame, and the answer TransportError(Exchange) with `committed` for WRITE only. That a WRITE which fails in its first
WaitReady reports `committed` = 0 is the model's reading (log 17). -/
def Obligations.TransportErrorExit : Prop :=
  ∀ (s : State) (d : Descriptor) (j : Job), seqAgrees s → s.handle = .open → s.desc = some d →
    (nextChoice s).xferFails = true →
    (s.phase = .waitIdle j ∨ s.phase = .writeEnable j ∨ s.phase = .mutate j ∨ s.phase = .waitDone j
        ∨ s.phase = .readData) →
      ∃ t, step s = .next t ∧ t.seq = .ready ∧ t.phase = .idle ∧ t.handle = .open ∧ t.desc = s.desc
        ∧ t.clockHz = s.clockHz ∧ t.timeoutPolls = s.timeoutPolls ∧ t.lockStatus = s.lockStatus
        ∧ t.lastStatus = (if s.mutated = true ∨ s.phase = .mutate j then none else s.lastStatus)
        ∧ t.responsePending = true
        ∧ t.response
            = some (.err (.transportError .exchange
                (if s.phase ≠ .readData ∧ j = .write then some s.done else none)))

/-! ### Whole operations -/

/-- A READ whose exchanges all succeed on an idle chip ends, within as many exchanges as it asks bytes, with exactly the
array's bytes at `offset .. offset + length`, in ascending address order, the chip and the status registers unchanged
(43_session_storage.md R225, 44_flash_device_model.md R260, 20_memory.md R81); and the frames on the wire are those of R226:
batch `j` at `offset + j * MAX_READ`, asking `min(MAX_READ, length - j * MAX_READ)` bytes. -/
def Obligations.ReadReturnsRequestedBytes : Prop :=
  ∀ (s : State) (d : Descriptor) (o n : BitVec 32), SessionInv s → readyWith d s → s.chip.geom = some d →
    s.chip.busy = false → o.toNat + n.toNat ≤ d.size → n.toNat ≠ 0 → n.toNat ≤ s.oracle.length →
    (∀ c ∈ s.oracle, c.xferFails = false) →
      ∃ u t, exec (.read o n) s = .next u ∧ untilIdle n.toNat u = some t
        ∧ t.response = some (.ok (.data ((List.range n.toNat).map fun i => chipByte s.chip (o.toNat + i))))
        ∧ t.seq = .ready ∧ t.chip = s.chip ∧ t.lastStatus = s.lastStatus ∧ t.lockStatus = s.lockStatus
        ∧ t.wire
            = ((List.range ((n.toNat + s.params.maxRead - 1) / s.params.maxRead)).map fun j =>
                let a : FlashAddr := BitVec.ofNat 24 (o.toNat + j * s.params.maxRead)
                let k := min s.params.maxRead (n.toNat - j * s.params.maxRead)
                .xfer (.readData a k) (d.ops.read :: addr3 a) k
                  (some ((List.range k).map fun i => chipByte s.chip (o.toNat + j * s.params.maxRead + i)))).reverse
              ++ s.wire

/-- Whatever the transport and the chip choose on the way, a WRITE that ends with Ok has ANDed its data into the array, and
changed no other byte (43_session_storage.md R229). -/
def Obligations.WriteOkAndsData : Prop :=
  ∀ (s t u : State) (d : Descriptor) (o : BitVec 32) (data : List Byte) (k : Nat), SessionInv s → MemoryInv s →
    readyWith d s → s.chip.geom = some d → exec (.write o data) s = .next u → untilIdle k u = some t →
      t.response = some (.ok (.count data.length)) →
        ∀ x, chipByte t.chip x
          = if o.toNat ≤ x ∧ x < o.toNat + data.length then chipByte s.chip x &&& data.getD (x - o.toNat) 0
            else chipByte s.chip x

/-- Whatever the transport and the chip choose on the way, an ERASE that ends with Ok has set every byte of the effective
range it answers to 0xFF, and changed no other byte (43_session_storage.md R231). -/
def Obligations.EraseOkErasesRange : Prop :=
  ∀ (s t u : State) (d : Descriptor) (o n : BitVec 32) (bulk bestEffort : Bool) (k lo hi : Nat), SessionInv s →
    MemoryInv s → readyWith d s → s.chip.geom = some d → exec (.erase o n bulk bestEffort) s = .next u →
      untilIdle k u = some t → t.response = some (.ok (.range lo hi)) →
        (lo, hi) = effectiveRange d.sectorSize o.toNat n.toNat bestEffort
          ∧ ∀ x, chipByte t.chip x = if lo ≤ x ∧ x < hi then 0xFF else chipByte s.chip x

/-! ### Whole-machine rules -/

/-- `seq` moves only as the table of 10_state.md R32 allows, and only a reset leaves Released, with no operation in flight
(70_reset_and_hazards.md R320, R322). -/
def Obligations.SequencerTransitionsLegal : Prop :=
  ∀ s t : State, SessionInv s → step s = .next t →
    t.seq = s.seq
      ∨ (s.seq, t.seq) ∈ [(Seq.unattached, Seq.identifying), (.identifying, .ready), (.identifying, .unattached),
          (.unattached, .released), (.ready, .reading), (.ready, .erasing), (.ready, .programming), (.reading, .ready),
          (.erasing, .ready), (.programming, .ready), (.ready, .released)]
      ∨ (t.seq = .unattached ∧ s.phase = .idle ∧ s.inbox.head? = some .newBlock)

/-- `lock_status` changes only in a step that has just read a status byte over the link, at the end of an ATTACH, or by a
reset (10_state.md R36, R45, 42_session_control.md R192). -/
def Obligations.OnlyStatusReadsWriteLock : Prop :=
  ∀ s t : State, step s = .next t → t.lockStatus ≠ s.lockStatus →
    (∃ w r, t.wire = .xfer .rdsr w 1 (some r) :: s.wire)
      ∨ (∃ d, s.phase = .deviceClock d)
      ∨ (s.phase = .idle ∧ s.inbox.head? = some .newBlock)

/-- The poll budget changes only by a SET_TIMEOUT request or a reset, so it outlives ATTACH and RELEASE (10_state.md R39,
42_session_control.md R199). -/
def Obligations.OnlySetTimeoutWritesBudget : Prop :=
  ∀ s t : State, step s = .next t → t.timeoutPolls ≠ s.timeoutPolls →
    s.phase = .idle
      ∧ ((∃ r, s.inbox.head? = some (.request r) ∧ r.op = 0x7 ∧ (s.seq = .unattached ∨ s.seq = .ready))
        ∨ s.inbox.head? = some .newBlock)

/-- A request refused with RangeError, UnsupportedOperation or InvalidRequest has made no transport primitive and left the
chip untouched (43_session_storage.md R232, 60_exceptions.md R283, R286, R287). -/
def Obligations.RefusedRequestsTouchNothing : Prop :=
  ∀ (i : Instr) (s t : State) (e : ErrorRecord), acceptedIn i ≠ none → accepting s = true → exec i s = .next t →
    t.response = some (.err e) →
    ((∃ why, e = .rangeError why) ∨ e = .unsupportedOperation .lock ∨ (∃ why, e = .invalidRequest why)) →
      t.wire = s.wire ∧ t.chip = s.chip ∧ t.draws = s.draws ∧ t.lastStatus = s.lastStatus ∧ t.seq = s.seq

/-- No step reads a working register outside the part of an operation that set it: two states that differ only in dead
working registers take steps that differ only in dead working registers (10_state.md R47: "A model must not let any
request read them outside an operation"). -/
def Obligations.StaleWorkingRegistersUnread : Prop :=
  ∀ s s' : State, liveView s = liveView s' → liveOutcome (step s) = liveOutcome (step s')

/-! ### Invariants -/

/-- The invariants hold right after reset (10_state.md R51, 40_registry.md R141; the parameters are the model's checked
ones, log 2). -/
def Obligations.InvariantsAtReset : Prop :=
  SessionInv State.reset ∧ MemoryInv State.reset ∧ GatingInv State.reset ∧ FramesInv State.reset

/-- Every step keeps the session invariant: well-formed parameters, and the agreement of sequencer, link, descriptor,
clock, response, poll budget, request and working registers (10_state.md R31-R47, 42_session_control.md R190, R201). -/
def Obligations.StepKeepsSession : Prop :=
  ∀ s t : State, SessionInv s → step s = .next t → SessionInv t

/-- From every state of the session invariant a step answers a next state, unless a frame is driven to the chip while the
block holds the link (93_implementation_defined.md U16) or a record with too much data for a request stands next
(30_encoding.md R100). That no operation lacks its descriptor follows from 10_state.md R35 and 42_session_control.md R190
(the fault it rules out is log 10); that a step with nothing to do (R33 has none) still answers is the model's choice
(log 23). -/
def Obligations.StepAlwaysAnswers : Prop :=
  ∀ s : State, SessionInv s → (s.handle = .open → ∀ w n, s.inbox.head? ≠ some (.frame w n)) →
    (∀ r, s.inbox.head? = some (.request r) → r.data.length < 2 ^ 32) → ∃ t, step s = .next t

/-- Every step keeps the chip's array (20_memory.md R70) in the canonical form of its list: addresses rising, no entry equal
to what an unlisted address reads as. The list and its form are the model's choice (log 3); the spec has neither. -/
def Obligations.StepKeepsMemoryCanonical : Prop :=
  ∀ s t : State, MemoryInv s → step s = .next t → MemoryInv t

/-- Every step keeps the order of frames on the wire: a mutating frame comes immediately after a WREN that succeeded and
nothing else does, a status read comes first after a mutating frame, and every WREN comes right after a status read that
showed the chip idle (41_codec.md R165, R166, R168, 70_reset_and_hazards.md R325, R326). -/
def Obligations.StepKeepsWriteEnableGating : Prop :=
  ∀ s t : State, GatingInv s → step s = .next t → GatingInv t

/-- Every step keeps every exchange legal: one of the nine commands in its format, addresses inside the array, sector
erases aligned, page programs inside one page, reads within MAX_READ, frames within MAX_WRITE_FRAME, replies of exactly
the length asked (20_memory.md R78, R79, 30_encoding.md R107, R111, 60_exceptions.md R302). -/
def Obligations.StepKeepsFramesLegal : Prop :=
  ∀ s t : State, SessionInv s → FramesInv s → step s = .next t → FramesInv t

/-! ### Tables and arithmetic -/

/-- Resolve is the lookup of 40_registry.md R142: with distinct ids it finds exactly the entry whose id is the code, finds
none exactly when there is none, and does not depend on the order of the registry; under well-formed parameters a bus with
no chip resolves to NotFound (R141 item 3). -/
def Obligations.ResolveIsLookup : Prop :=
  (∀ (reg : List Descriptor) (code : List Byte), (reg.map Descriptor.id).Nodup →
    (∀ d, resolve reg code = some d ↔ d ∈ reg ∧ d.id = code)
      ∧ (resolve reg code = none ↔ ∀ d ∈ reg, d.id ≠ code)
      ∧ (∀ reg', reg.Perm reg' → resolve reg' code = resolve reg code))
    ∧ (∀ p : Params, paramsWf p = true →
      resolve p.registry [0xFF, 0xFF, 0xFF] = none ∧ resolve p.registry [0x00, 0x00, 0x00] = none)

/-- On a well-formed device the effective range of an admitted ERASE covers the requested one, is sector aligned, exceeds
it by less than a sector on each side and stays inside the device (43_session_storage.md R223, 20_memory.md R77). -/
def Obligations.EffectiveRangeCovers : Prop :=
  ∀ (d : Descriptor) (m o n : Nat) (bestEffort : Bool), descriptorWf m d = true → o + n ≤ d.size → n ≠ 0 →
    (bestEffort = true ∨ (o % d.sectorSize = 0 ∧ n % d.sectorSize = 0)) →
      (effectiveRange d.sectorSize o n bestEffort).1 ≤ o
        ∧ o < (effectiveRange d.sectorSize o n bestEffort).1 + d.sectorSize
        ∧ o + n ≤ (effectiveRange d.sectorSize o n bestEffort).2
        ∧ (effectiveRange d.sectorSize o n bestEffort).2 < o + n + d.sectorSize
        ∧ (effectiveRange d.sectorSize o n bestEffort).1 % d.sectorSize = 0
        ∧ (effectiveRange d.sectorSize o n bestEffort).2 % d.sectorSize = 0
        ∧ (effectiveRange d.sectorSize o n bestEffort).2 ≤ d.size

/-- The response codes of 60_exceptions.md R280 and 30_encoding.md R103. -/
def Obligations.ResponseCodes : Prop :=
  (∀ v, responseCode (.ok v) = 0)
    ∧ (∀ x, responseCode (.err (.unknownDevice x)) = 1) ∧ (∀ x y, responseCode (.err (.transportError x y)) = 2)
    ∧ (∀ x, responseCode (.err (.rangeError x)) = 3) ∧ (∀ x, responseCode (.err (.lockedError x)) = 4)
    ∧ (∀ x y, responseCode (.err (.timeout x y)) = 5) ∧ (∀ x, responseCode (.err (.unsupportedOperation x)) = 6)
    ∧ (∀ x, responseCode (.err (.invalidRequest x)) = 7)

/-- The reset values the spec gives (10_state.md R51). -/
def Obligations.ResetValues : Prop :=
  State.reset.seq = .unattached ∧ State.reset.handle = .none ∧ State.reset.desc = none
    ∧ State.reset.lockStatus = .unknown ∧ State.reset.lastStatus = none ∧ State.reset.clockHz = none
    ∧ State.reset.timeoutPolls = none ∧ State.reset.response = none ∧ State.reset.responsePending = false
    ∧ State.reset.phase = .idle

/-- A reset is the creation of a block instance: the block's state takes its reset values, no primitive is made, the chip
and the parameters stay; and nothing else leaves Released (70_reset_and_hazards.md R320). -/
def Obligations.NewBlockResets : Prop :=
  (∀ (s : State) (rest : List Input), s.phase = .idle → s.responsePending = false → s.inbox = .newBlock :: rest →
      ∃ t, step s = .next t ∧ t.seq = .unattached ∧ t.handle = .none ∧ t.desc = none ∧ t.lockStatus = .unknown
        ∧ t.lastStatus = none ∧ t.clockHz = none ∧ t.timeoutPolls = none ∧ t.responsePending = false
        ∧ t.response = none ∧ t.wire = s.wire ∧ t.chip = s.chip ∧ t.params = s.params ∧ t.inbox = rest)
    ∧ (∀ s t : State, SessionInv s → s.seq = .released → step s = .next t → t.seq ≠ .released →
      s.inbox.head? = some .newBlock)
end

