-- ==== Sys2Proof/Laws/Memory.lean ====
section
/-! SUPPORT. The laws of the byte array: a read after a write, the canonical form kept by every operation, and canonical
arrays that read the same are equal. -/

namespace Sys2Proof.Machine

@[simp] theorem memRead_nil (bg : Nat → Byte) (a : Nat) : memRead bg [] a = bg a := rfl

theorem memRead_cons (bg : Nat → Byte) (k : Nat) (v : Byte) (t : List Host.Cell) (a : Nat) :
    memRead bg ((k, v) :: t) a = if k = a then v else memRead bg t a := rfl

/-- An address below every listed one is unlisted. -/
theorem memRead_of_lt (bg : Nat → Byte) (m : List Host.Cell) (a : Nat) (h : ∀ c ∈ m, a < c.1) :
    memRead bg m a = bg a := by
  induction m with
  | nil => rfl
  | cons c t ih =>
    obtain ⟨k, v⟩ := c
    have hk : a < k := h (k, v) (by simp)
    rw [memRead_cons, if_neg (by omega)]
    exact ih fun c hc => h c (by simp [hc])

theorem memWf_nil (bg : Nat → Byte) : memWf bg [] := by simp [memWf]

theorem memWf_cons {bg : Nat → Byte} {k : Nat} {v : Byte} {t : List Host.Cell} :
    memWf bg ((k, v) :: t) ↔ (∀ c ∈ t, k < c.1) ∧ v ≠ bg k ∧ memWf bg t := by
  constructor
  · rintro ⟨h1, h2⟩
    rw [List.map_cons, List.pairwise_cons] at h1
    exact ⟨fun c hc => h1.1 c.1 (List.mem_map_of_mem hc), h2 (k, v) (by simp), h1.2, fun c hc => h2 c (by simp [hc])⟩
  · rintro ⟨h1, h2, h3, h4⟩
    refine ⟨?_, ?_⟩
    · rw [List.map_cons, List.pairwise_cons]
      refine ⟨fun a ha => ?_, h3⟩
      obtain ⟨c, hc, rfl⟩ := List.mem_map.1 ha
      exact h1 c hc
    · intro c hc
      rcases List.mem_cons.1 hc with rfl | hc
      · exact h2
      · exact h4 c hc

/-- Every address listed after a write was listed before, or is the one written. -/
theorem mem_memWrite {bg : Nat → Byte} {m : List Host.Cell} {a : Nat} {b : Byte} {c : Host.Cell}
    (h : c ∈ memWrite bg m a b) : c ∈ m ∨ c = (a, b) := by
  induction m with
  | nil =>
    simp only [memWrite] at h
    split at h <;> simp_all
  | cons e t ih =>
    obtain ⟨k, v⟩ := e
    simp only [memWrite] at h
    split at h
    · split at h
      · exact .inl h
      · rcases List.mem_cons.1 h with h | h <;> simp [h]
    · split at h
      · next hak =>
        subst hak
        split at h
        · exact .inl (List.mem_cons_of_mem _ h)
        · rcases List.mem_cons.1 h with h | h <;> simp [h]
      · rcases List.mem_cons.1 h with rfl | h
        · simp
        · rcases ih h with h | h <;> simp [h]

/-- A write keeps the canonical form. -/
theorem memWrite_wf {bg : Nat → Byte} {m : List Host.Cell} (a : Nat) (b : Byte) (h : memWf bg m) :
    memWf bg (memWrite bg m a b) := by
  induction m with
  | nil =>
    simp only [memWrite]
    split
    · exact h
    · next hb => exact memWf_cons.2 ⟨by simp, hb, h⟩
  | cons e t ih =>
    obtain ⟨k, v⟩ := e
    obtain ⟨h1, h2, h3⟩ := memWf_cons.1 h
    simp only [memWrite]
    split
    · next hak =>
      split
      · exact h
      · next hb =>
        refine memWf_cons.2 ⟨fun c hc => ?_, hb, h⟩
        rcases List.mem_cons.1 hc with rfl | hc
        · exact hak
        · exact Nat.lt_trans hak (h1 c hc)
    · split
      · next hak =>
        subst hak
        split
        · exact h3
        · next hb => exact memWf_cons.2 ⟨h1, hb, h3⟩
      · next hlt hne =>
        refine memWf_cons.2 ⟨fun c hc => ?_, h2, ih h3⟩
        rcases mem_memWrite hc with hc | rfl
        · exact h1 c hc
        · show k < a
          omega

/-- Reading any address after a write to a canonical array. -/
theorem memRead_memWrite {bg : Nat → Byte} {m : List Host.Cell} (h : memWf bg m) (a : Nat) (b : Byte) (x : Nat) :
    memRead bg (memWrite bg m a b) x = if x = a then b else memRead bg m x := by
  induction m with
  | nil =>
    simp only [memWrite]
    split
    · next hb => split <;> simp_all
    · rw [memRead_cons]
      by_cases hx : x = a
      · simp [hx]
      · rw [if_neg (by omega), if_neg hx]
  | cons e t ih =>
    obtain ⟨k, v⟩ := e
    obtain ⟨h1, h2, h3⟩ := memWf_cons.1 h
    simp only [memWrite]
    split
    · next hak =>
      split
      · next hb =>
        by_cases hx : x = a
        · subst hx
          rw [if_pos rfl, hb]
          apply memRead_of_lt
          intro c hc
          rcases List.mem_cons.1 hc with rfl | hc
          · exact hak
          · exact Nat.lt_trans hak (h1 c hc)
        · rw [if_neg hx]
      · rw [memRead_cons]
        by_cases hx : x = a
        · simp [hx]
        · rw [if_neg (by omega), if_neg hx]
    · split
      · next hnlt hak =>
        subst hak
        by_cases hx : x = a
        · subst hx
          rw [if_pos rfl]
          split
          · next hb => rw [hb]; exact memRead_of_lt _ _ _ h1
          · simp [memRead_cons]
        · rw [if_neg hx]
          split <;> simp [memRead_cons, Ne.symm hx]
      · next hnlt hne =>
        rw [memRead_cons, memRead_cons, ih h3]
        by_cases hk : k = x
        · subst hk
          rw [if_pos rfl, if_pos rfl, if_neg (by omega)]
        · rw [if_neg hk, if_neg hk]

/-- An update keeps the canonical form. -/
theorem memUpdate_wf {bg : Nat → Byte} {m : List Host.Cell} (lo : Nat) (f : Nat → Byte) (n : Nat) (h : memWf bg m) :
    memWf bg (memUpdate bg m lo f n) := by
  induction n with
  | zero => exact h
  | succ n ih => exact memWrite_wf _ _ ih

/-- Reading any address after an update of a canonical array. -/
theorem memRead_memUpdate {bg : Nat → Byte} {m : List Host.Cell} (h : memWf bg m) (lo : Nat) (f : Nat → Byte) (n x : Nat) :
    memRead bg (memUpdate bg m lo f n) x = if lo ≤ x ∧ x < lo + n then f x else memRead bg m x := by
  induction n with
  | zero => rw [if_neg (by omega)]; rfl
  | succ n ih =>
    rw [memUpdate, memRead_memWrite (memUpdate_wf lo f n h), ih]
    by_cases hx : x = lo + n
    · subst hx
      rw [if_pos rfl, if_pos (by omega)]
    · rw [if_neg hx]
      by_cases hr : lo ≤ x ∧ x < lo + n
      · rw [if_pos hr, if_pos (by omega)]
      · rw [if_neg hr, if_neg (by omega)]

/-- Canonical arrays that read the same everywhere are the same list. -/
theorem memWf_ext {bg : Nat → Byte} {m m' : List Host.Cell} (h : memWf bg m) (h' : memWf bg m')
    (e : ∀ a, memRead bg m a = memRead bg m' a) : m = m' := by
  induction m generalizing m' with
  | nil =>
    cases m' with
    | nil => rfl
    | cons c t =>
      obtain ⟨k, v⟩ := c
      have := e k
      rw [memRead_nil, memRead_cons, if_pos rfl] at this
      exact absurd this.symm (memWf_cons.1 h').2.1
  | cons c t ih =>
    obtain ⟨k, v⟩ := c
    obtain ⟨h1, h2, h3⟩ := memWf_cons.1 h
    have hk := e k
    rw [memRead_cons, if_pos rfl] at hk
    cases m' with
    | nil => exact absurd hk h2
    | cons c' t' =>
      obtain ⟨k', v'⟩ := c'
      obtain ⟨h1', h2', h3'⟩ := memWf_cons.1 h'
      have hk' := e k'
      rw [memRead_cons (k := k'), if_pos rfl] at hk'
      have hkk : k = k' := by
        rcases Nat.lt_trichotomy k k' with hlt | heq | hgt
        · refine absurd (hk.trans (memRead_of_lt _ _ _ fun c hc => ?_)) h2
          rcases List.mem_cons.1 hc with rfl | hc
          · exact hlt
          · exact Nat.lt_trans hlt (h1' c hc)
        · exact heq
        · refine absurd (hk'.symm.trans (memRead_of_lt _ _ _ fun c hc => ?_)) h2'
          rcases List.mem_cons.1 hc with rfl | hc
          · exact hgt
          · exact Nat.lt_trans hgt (h1 c hc)
      subst hkk
      rw [memRead_cons, if_pos rfl] at hk
      subst hk
      congr 1
      refine ih h3 h3' fun a => ?_
      by_cases ha : k = a
      · subst ha
        rw [memRead_of_lt _ _ _ h1, memRead_of_lt _ _ _ h1']
      · have := e a
        rwa [memRead_cons, memRead_cons, if_neg ha, if_neg ha] at this

end Sys2Proof.Machine
end

