-- ==== Sys2Proof/Laws/State.lean ====
section
/-! SUPPORT. Each field of the state after each named update, so that no proof unfolds a record update. -/

namespace Sys2Proof.Machine

/-! ### accept -/

@[simp] theorem accept_params (r : Request) (s : State) :
    (accept r s).params = s.params := rfl
@[simp] theorem accept_seq (r : Request) (s : State) :
    (accept r s).seq = s.seq := rfl
@[simp] theorem accept_handle (r : Request) (s : State) :
    (accept r s).handle = s.handle := rfl
@[simp] theorem accept_desc (r : Request) (s : State) :
    (accept r s).desc = s.desc := rfl
@[simp] theorem accept_lockStatus (r : Request) (s : State) :
    (accept r s).lockStatus = s.lockStatus := rfl
@[simp] theorem accept_lastStatus (r : Request) (s : State) :
    (accept r s).lastStatus = s.lastStatus := rfl
@[simp] theorem accept_clockHz (r : Request) (s : State) :
    (accept r s).clockHz = s.clockHz := rfl
@[simp] theorem accept_timeoutPolls (r : Request) (s : State) :
    (accept r s).timeoutPolls = s.timeoutPolls := rfl
@[simp] theorem accept_req (r : Request) (s : State) :
    (accept r s).req = latched r := rfl
@[simp] theorem accept_addr (r : Request) (s : State) :
    (accept r s).addr = s.addr := rfl
@[simp] theorem accept_done (r : Request) (s : State) :
    (accept r s).done = s.done := rfl
@[simp] theorem accept_polls (r : Request) (s : State) :
    (accept r s).polls = s.polls := rfl
@[simp] theorem accept_cur (r : Request) (s : State) :
    (accept r s).cur = s.cur := rfl
@[simp] theorem accept_acc (r : Request) (s : State) :
    (accept r s).acc = s.acc := rfl
@[simp] theorem accept_response (r : Request) (s : State) :
    (accept r s).response = none := rfl
@[simp] theorem accept_responsePending (r : Request) (s : State) :
    (accept r s).responsePending = false := rfl
@[simp] theorem accept_phase (r : Request) (s : State) :
    (accept r s).phase = s.phase := rfl
@[simp] theorem accept_mutated (r : Request) (s : State) :
    (accept r s).mutated = false := rfl
@[simp] theorem accept_chip (r : Request) (s : State) :
    (accept r s).chip = s.chip := rfl
@[simp] theorem accept_port (r : Request) (s : State) :
    (accept r s).port = s.port := rfl
@[simp] theorem accept_inbox (r : Request) (s : State) :
    (accept r s).inbox = s.inbox := rfl
@[simp] theorem accept_delivered (r : Request) (s : State) :
    (accept r s).delivered = s.delivered := rfl
@[simp] theorem accept_wire (r : Request) (s : State) :
    (accept r s).wire = s.wire := rfl
@[simp] theorem accept_probeReply (r : Request) (s : State) :
    (accept r s).probeReply = s.probeReply := rfl
@[simp] theorem accept_oracle (r : Request) (s : State) :
    (accept r s).oracle = s.oracle := rfl
@[simp] theorem accept_draws (r : Request) (s : State) :
    (accept r s).draws = s.draws := rfl

/-! ### hold -/

@[simp] theorem hold_params (r : Request) (s : State) :
    (hold r s).params = s.params := rfl
@[simp] theorem hold_seq (r : Request) (s : State) :
    (hold r s).seq = s.seq := rfl
@[simp] theorem hold_handle (r : Request) (s : State) :
    (hold r s).handle = s.handle := rfl
@[simp] theorem hold_desc (r : Request) (s : State) :
    (hold r s).desc = s.desc := rfl
@[simp] theorem hold_lockStatus (r : Request) (s : State) :
    (hold r s).lockStatus = s.lockStatus := rfl
@[simp] theorem hold_lastStatus (r : Request) (s : State) :
    (hold r s).lastStatus = s.lastStatus := rfl
@[simp] theorem hold_clockHz (r : Request) (s : State) :
    (hold r s).clockHz = s.clockHz := rfl
@[simp] theorem hold_timeoutPolls (r : Request) (s : State) :
    (hold r s).timeoutPolls = s.timeoutPolls := rfl
@[simp] theorem hold_req (r : Request) (s : State) :
    (hold r s).req = s.req := rfl
@[simp] theorem hold_addr (r : Request) (s : State) :
    (hold r s).addr = s.addr := rfl
@[simp] theorem hold_done (r : Request) (s : State) :
    (hold r s).done = s.done := rfl
@[simp] theorem hold_polls (r : Request) (s : State) :
    (hold r s).polls = s.polls := rfl
@[simp] theorem hold_cur (r : Request) (s : State) :
    (hold r s).cur = s.cur := rfl
@[simp] theorem hold_acc (r : Request) (s : State) :
    (hold r s).acc = s.acc := rfl
@[simp] theorem hold_response (r : Request) (s : State) :
    (hold r s).response = s.response := rfl
@[simp] theorem hold_responsePending (r : Request) (s : State) :
    (hold r s).responsePending = s.responsePending := rfl
@[simp] theorem hold_phase (r : Request) (s : State) :
    (hold r s).phase = s.phase := rfl
@[simp] theorem hold_mutated (r : Request) (s : State) :
    (hold r s).mutated = s.mutated := rfl
@[simp] theorem hold_chip (r : Request) (s : State) :
    (hold r s).chip = s.chip := rfl
@[simp] theorem hold_port (r : Request) (s : State) :
    (hold r s).port = s.port := rfl
@[simp] theorem hold_inbox (r : Request) (s : State) :
    (hold r s).inbox = .request r :: s.inbox := rfl
@[simp] theorem hold_delivered (r : Request) (s : State) :
    (hold r s).delivered = s.delivered := rfl
@[simp] theorem hold_wire (r : Request) (s : State) :
    (hold r s).wire = s.wire := rfl
@[simp] theorem hold_probeReply (r : Request) (s : State) :
    (hold r s).probeReply = s.probeReply := rfl
@[simp] theorem hold_oracle (r : Request) (s : State) :
    (hold r s).oracle = s.oracle := rfl
@[simp] theorem hold_draws (r : Request) (s : State) :
    (hold r s).draws = s.draws := rfl

/-! ### respond -/

@[simp] theorem respond_params (r : Response) (s : State) :
    (respond r s).params = s.params := rfl
@[simp] theorem respond_seq (r : Response) (s : State) :
    (respond r s).seq = s.seq := rfl
@[simp] theorem respond_handle (r : Response) (s : State) :
    (respond r s).handle = s.handle := rfl
@[simp] theorem respond_desc (r : Response) (s : State) :
    (respond r s).desc = s.desc := rfl
@[simp] theorem respond_lockStatus (r : Response) (s : State) :
    (respond r s).lockStatus = s.lockStatus := rfl
@[simp] theorem respond_lastStatus (r : Response) (s : State) :
    (respond r s).lastStatus = s.lastStatus := rfl
@[simp] theorem respond_clockHz (r : Response) (s : State) :
    (respond r s).clockHz = s.clockHz := rfl
@[simp] theorem respond_timeoutPolls (r : Response) (s : State) :
    (respond r s).timeoutPolls = s.timeoutPolls := rfl
@[simp] theorem respond_req (r : Response) (s : State) :
    (respond r s).req = s.req := rfl
@[simp] theorem respond_addr (r : Response) (s : State) :
    (respond r s).addr = s.addr := rfl
@[simp] theorem respond_done (r : Response) (s : State) :
    (respond r s).done = s.done := rfl
@[simp] theorem respond_polls (r : Response) (s : State) :
    (respond r s).polls = s.polls := rfl
@[simp] theorem respond_cur (r : Response) (s : State) :
    (respond r s).cur = s.cur := rfl
@[simp] theorem respond_acc (r : Response) (s : State) :
    (respond r s).acc = s.acc := rfl
@[simp] theorem respond_response (r : Response) (s : State) :
    (respond r s).response = some r := rfl
@[simp] theorem respond_responsePending (r : Response) (s : State) :
    (respond r s).responsePending = true := rfl
@[simp] theorem respond_phase (r : Response) (s : State) :
    (respond r s).phase = .idle := rfl
@[simp] theorem respond_mutated (r : Response) (s : State) :
    (respond r s).mutated = s.mutated := rfl
@[simp] theorem respond_chip (r : Response) (s : State) :
    (respond r s).chip = s.chip := rfl
@[simp] theorem respond_port (r : Response) (s : State) :
    (respond r s).port = s.port := rfl
@[simp] theorem respond_inbox (r : Response) (s : State) :
    (respond r s).inbox = s.inbox := rfl
@[simp] theorem respond_delivered (r : Response) (s : State) :
    (respond r s).delivered = s.delivered := rfl
@[simp] theorem respond_wire (r : Response) (s : State) :
    (respond r s).wire = s.wire := rfl
@[simp] theorem respond_probeReply (r : Response) (s : State) :
    (respond r s).probeReply = s.probeReply := rfl
@[simp] theorem respond_oracle (r : Response) (s : State) :
    (respond r s).oracle = s.oracle := rfl
@[simp] theorem respond_draws (r : Response) (s : State) :
    (respond r s).draws = s.draws := rfl

/-! ### succeed -/

@[simp] theorem succeed_params (v : Value) (s : State) :
    (succeed v s).params = s.params := rfl
@[simp] theorem succeed_seq (v : Value) (s : State) :
    (succeed v s).seq = seqAfterSuccess s.seq := rfl
@[simp] theorem succeed_handle (v : Value) (s : State) :
    (succeed v s).handle = s.handle := rfl
@[simp] theorem succeed_desc (v : Value) (s : State) :
    (succeed v s).desc = s.desc := rfl
@[simp] theorem succeed_lockStatus (v : Value) (s : State) :
    (succeed v s).lockStatus = s.lockStatus := rfl
@[simp] theorem succeed_lastStatus (v : Value) (s : State) :
    (succeed v s).lastStatus = s.lastStatus := rfl
@[simp] theorem succeed_clockHz (v : Value) (s : State) :
    (succeed v s).clockHz = s.clockHz := rfl
@[simp] theorem succeed_timeoutPolls (v : Value) (s : State) :
    (succeed v s).timeoutPolls = s.timeoutPolls := rfl
@[simp] theorem succeed_req (v : Value) (s : State) :
    (succeed v s).req = s.req := rfl
@[simp] theorem succeed_addr (v : Value) (s : State) :
    (succeed v s).addr = s.addr := rfl
@[simp] theorem succeed_done (v : Value) (s : State) :
    (succeed v s).done = s.done := rfl
@[simp] theorem succeed_polls (v : Value) (s : State) :
    (succeed v s).polls = s.polls := rfl
@[simp] theorem succeed_cur (v : Value) (s : State) :
    (succeed v s).cur = s.cur := rfl
@[simp] theorem succeed_acc (v : Value) (s : State) :
    (succeed v s).acc = s.acc := rfl
@[simp] theorem succeed_response (v : Value) (s : State) :
    (succeed v s).response = some (.ok v) := rfl
@[simp] theorem succeed_responsePending (v : Value) (s : State) :
    (succeed v s).responsePending = true := rfl
@[simp] theorem succeed_phase (v : Value) (s : State) :
    (succeed v s).phase = .idle := rfl
@[simp] theorem succeed_mutated (v : Value) (s : State) :
    (succeed v s).mutated = s.mutated := rfl
@[simp] theorem succeed_chip (v : Value) (s : State) :
    (succeed v s).chip = s.chip := rfl
@[simp] theorem succeed_port (v : Value) (s : State) :
    (succeed v s).port = s.port := rfl
@[simp] theorem succeed_inbox (v : Value) (s : State) :
    (succeed v s).inbox = s.inbox := rfl
@[simp] theorem succeed_delivered (v : Value) (s : State) :
    (succeed v s).delivered = s.delivered := rfl
@[simp] theorem succeed_wire (v : Value) (s : State) :
    (succeed v s).wire = s.wire := rfl
@[simp] theorem succeed_probeReply (v : Value) (s : State) :
    (succeed v s).probeReply = s.probeReply := rfl
@[simp] theorem succeed_oracle (v : Value) (s : State) :
    (succeed v s).oracle = s.oracle := rfl
@[simp] theorem succeed_draws (v : Value) (s : State) :
    (succeed v s).draws = s.draws := rfl

/-! ### raiseError -/

@[simp] theorem raiseError_params (e : ErrorRecord) (s : State) :
    (raiseError e s).params = s.params := rfl
@[simp] theorem raiseError_seq (e : ErrorRecord) (s : State) :
    (raiseError e s).seq = seqAfterError s.seq := rfl
@[simp] theorem raiseError_handle (e : ErrorRecord) (s : State) :
    (raiseError e s).handle = s.handle := rfl
@[simp] theorem raiseError_desc (e : ErrorRecord) (s : State) :
    (raiseError e s).desc = s.desc := rfl
@[simp] theorem raiseError_lockStatus (e : ErrorRecord) (s : State) :
    (raiseError e s).lockStatus = s.lockStatus := rfl
@[simp] theorem raiseError_lastStatus (e : ErrorRecord) (s : State) :
    (raiseError e s).lastStatus = statusAfterError e s := rfl
@[simp] theorem raiseError_clockHz (e : ErrorRecord) (s : State) :
    (raiseError e s).clockHz = s.clockHz := rfl
@[simp] theorem raiseError_timeoutPolls (e : ErrorRecord) (s : State) :
    (raiseError e s).timeoutPolls = s.timeoutPolls := rfl
@[simp] theorem raiseError_req (e : ErrorRecord) (s : State) :
    (raiseError e s).req = s.req := rfl
@[simp] theorem raiseError_addr (e : ErrorRecord) (s : State) :
    (raiseError e s).addr = s.addr := rfl
@[simp] theorem raiseError_done (e : ErrorRecord) (s : State) :
    (raiseError e s).done = s.done := rfl
@[simp] theorem raiseError_polls (e : ErrorRecord) (s : State) :
    (raiseError e s).polls = s.polls := rfl
@[simp] theorem raiseError_cur (e : ErrorRecord) (s : State) :
    (raiseError e s).cur = s.cur := rfl
@[simp] theorem raiseError_acc (e : ErrorRecord) (s : State) :
    (raiseError e s).acc = s.acc := rfl
@[simp] theorem raiseError_response (e : ErrorRecord) (s : State) :
    (raiseError e s).response = some (.err e) := rfl
@[simp] theorem raiseError_responsePending (e : ErrorRecord) (s : State) :
    (raiseError e s).responsePending = true := rfl
@[simp] theorem raiseError_phase (e : ErrorRecord) (s : State) :
    (raiseError e s).phase = .idle := rfl
@[simp] theorem raiseError_mutated (e : ErrorRecord) (s : State) :
    (raiseError e s).mutated = s.mutated := rfl
@[simp] theorem raiseError_chip (e : ErrorRecord) (s : State) :
    (raiseError e s).chip = s.chip := rfl
@[simp] theorem raiseError_port (e : ErrorRecord) (s : State) :
    (raiseError e s).port = s.port := rfl
@[simp] theorem raiseError_inbox (e : ErrorRecord) (s : State) :
    (raiseError e s).inbox = s.inbox := rfl
@[simp] theorem raiseError_delivered (e : ErrorRecord) (s : State) :
    (raiseError e s).delivered = s.delivered := rfl
@[simp] theorem raiseError_wire (e : ErrorRecord) (s : State) :
    (raiseError e s).wire = s.wire := rfl
@[simp] theorem raiseError_probeReply (e : ErrorRecord) (s : State) :
    (raiseError e s).probeReply = s.probeReply := rfl
@[simp] theorem raiseError_oracle (e : ErrorRecord) (s : State) :
    (raiseError e s).oracle = s.oracle := rfl
@[simp] theorem raiseError_draws (e : ErrorRecord) (s : State) :
    (raiseError e s).draws = s.draws := rfl

/-! ### refuseRequest -/

@[simp] theorem refuseRequest_params (w : InvalidReason) (s : State) :
    (refuseRequest w s).params = s.params := rfl
@[simp] theorem refuseRequest_seq (w : InvalidReason) (s : State) :
    (refuseRequest w s).seq = s.seq := rfl
@[simp] theorem refuseRequest_handle (w : InvalidReason) (s : State) :
    (refuseRequest w s).handle = s.handle := rfl
@[simp] theorem refuseRequest_desc (w : InvalidReason) (s : State) :
    (refuseRequest w s).desc = s.desc := rfl
@[simp] theorem refuseRequest_lockStatus (w : InvalidReason) (s : State) :
    (refuseRequest w s).lockStatus = s.lockStatus := rfl
@[simp] theorem refuseRequest_lastStatus (w : InvalidReason) (s : State) :
    (refuseRequest w s).lastStatus = s.lastStatus := rfl
@[simp] theorem refuseRequest_clockHz (w : InvalidReason) (s : State) :
    (refuseRequest w s).clockHz = s.clockHz := rfl
@[simp] theorem refuseRequest_timeoutPolls (w : InvalidReason) (s : State) :
    (refuseRequest w s).timeoutPolls = s.timeoutPolls := rfl
@[simp] theorem refuseRequest_req (w : InvalidReason) (s : State) :
    (refuseRequest w s).req = s.req := rfl
@[simp] theorem refuseRequest_addr (w : InvalidReason) (s : State) :
    (refuseRequest w s).addr = s.addr := rfl
@[simp] theorem refuseRequest_done (w : InvalidReason) (s : State) :
    (refuseRequest w s).done = s.done := rfl
@[simp] theorem refuseRequest_polls (w : InvalidReason) (s : State) :
    (refuseRequest w s).polls = s.polls := rfl
@[simp] theorem refuseRequest_cur (w : InvalidReason) (s : State) :
    (refuseRequest w s).cur = s.cur := rfl
@[simp] theorem refuseRequest_acc (w : InvalidReason) (s : State) :
    (refuseRequest w s).acc = s.acc := rfl
@[simp] theorem refuseRequest_response (w : InvalidReason) (s : State) :
    (refuseRequest w s).response = some (.err (.invalidRequest w)) := rfl
@[simp] theorem refuseRequest_responsePending (w : InvalidReason) (s : State) :
    (refuseRequest w s).responsePending = true := rfl
@[simp] theorem refuseRequest_phase (w : InvalidReason) (s : State) :
    (refuseRequest w s).phase = .idle := rfl
@[simp] theorem refuseRequest_mutated (w : InvalidReason) (s : State) :
    (refuseRequest w s).mutated = s.mutated := rfl
@[simp] theorem refuseRequest_chip (w : InvalidReason) (s : State) :
    (refuseRequest w s).chip = s.chip := rfl
@[simp] theorem refuseRequest_port (w : InvalidReason) (s : State) :
    (refuseRequest w s).port = s.port := rfl
@[simp] theorem refuseRequest_inbox (w : InvalidReason) (s : State) :
    (refuseRequest w s).inbox = s.inbox := rfl
@[simp] theorem refuseRequest_delivered (w : InvalidReason) (s : State) :
    (refuseRequest w s).delivered = s.delivered := rfl
@[simp] theorem refuseRequest_wire (w : InvalidReason) (s : State) :
    (refuseRequest w s).wire = s.wire := rfl
@[simp] theorem refuseRequest_probeReply (w : InvalidReason) (s : State) :
    (refuseRequest w s).probeReply = s.probeReply := rfl
@[simp] theorem refuseRequest_oracle (w : InvalidReason) (s : State) :
    (refuseRequest w s).oracle = s.oracle := rfl
@[simp] theorem refuseRequest_draws (w : InvalidReason) (s : State) :
    (refuseRequest w s).draws = s.draws := rfl

/-! ### enterJob -/

@[simp] theorem enterJob_params (q : Seq) (j : Job) (s : State) :
    (enterJob q j s).params = s.params := rfl
@[simp] theorem enterJob_seq (q : Seq) (j : Job) (s : State) :
    (enterJob q j s).seq = q := rfl
@[simp] theorem enterJob_handle (q : Seq) (j : Job) (s : State) :
    (enterJob q j s).handle = s.handle := rfl
@[simp] theorem enterJob_desc (q : Seq) (j : Job) (s : State) :
    (enterJob q j s).desc = s.desc := rfl
@[simp] theorem enterJob_lockStatus (q : Seq) (j : Job) (s : State) :
    (enterJob q j s).lockStatus = s.lockStatus := rfl
@[simp] theorem enterJob_lastStatus (q : Seq) (j : Job) (s : State) :
    (enterJob q j s).lastStatus = s.lastStatus := rfl
@[simp] theorem enterJob_clockHz (q : Seq) (j : Job) (s : State) :
    (enterJob q j s).clockHz = s.clockHz := rfl
@[simp] theorem enterJob_timeoutPolls (q : Seq) (j : Job) (s : State) :
    (enterJob q j s).timeoutPolls = s.timeoutPolls := rfl
@[simp] theorem enterJob_req (q : Seq) (j : Job) (s : State) :
    (enterJob q j s).req = s.req := rfl
@[simp] theorem enterJob_addr (q : Seq) (j : Job) (s : State) :
    (enterJob q j s).addr = s.addr := rfl
@[simp] theorem enterJob_done (q : Seq) (j : Job) (s : State) :
    (enterJob q j s).done = 0 := rfl
@[simp] theorem enterJob_polls (q : Seq) (j : Job) (s : State) :
    (enterJob q j s).polls = 0 := rfl
@[simp] theorem enterJob_cur (q : Seq) (j : Job) (s : State) :
    (enterJob q j s).cur = s.cur := rfl
@[simp] theorem enterJob_acc (q : Seq) (j : Job) (s : State) :
    (enterJob q j s).acc = s.acc := rfl
@[simp] theorem enterJob_response (q : Seq) (j : Job) (s : State) :
    (enterJob q j s).response = s.response := rfl
@[simp] theorem enterJob_responsePending (q : Seq) (j : Job) (s : State) :
    (enterJob q j s).responsePending = s.responsePending := rfl
@[simp] theorem enterJob_phase (q : Seq) (j : Job) (s : State) :
    (enterJob q j s).phase = .waitIdle j := rfl
@[simp] theorem enterJob_mutated (q : Seq) (j : Job) (s : State) :
    (enterJob q j s).mutated = s.mutated := rfl
@[simp] theorem enterJob_chip (q : Seq) (j : Job) (s : State) :
    (enterJob q j s).chip = s.chip := rfl
@[simp] theorem enterJob_port (q : Seq) (j : Job) (s : State) :
    (enterJob q j s).port = s.port := rfl
@[simp] theorem enterJob_inbox (q : Seq) (j : Job) (s : State) :
    (enterJob q j s).inbox = s.inbox := rfl
@[simp] theorem enterJob_delivered (q : Seq) (j : Job) (s : State) :
    (enterJob q j s).delivered = s.delivered := rfl
@[simp] theorem enterJob_wire (q : Seq) (j : Job) (s : State) :
    (enterJob q j s).wire = s.wire := rfl
@[simp] theorem enterJob_probeReply (q : Seq) (j : Job) (s : State) :
    (enterJob q j s).probeReply = s.probeReply := rfl
@[simp] theorem enterJob_oracle (q : Seq) (j : Job) (s : State) :
    (enterJob q j s).oracle = s.oracle := rfl
@[simp] theorem enterJob_draws (q : Seq) (j : Job) (s : State) :
    (enterJob q j s).draws = s.draws := rfl

/-! ### spend -/

@[simp] theorem spend_params (s : State) :
    (spend s).params = s.params := rfl
@[simp] theorem spend_seq (s : State) :
    (spend s).seq = s.seq := rfl
@[simp] theorem spend_handle (s : State) :
    (spend s).handle = s.handle := rfl
@[simp] theorem spend_desc (s : State) :
    (spend s).desc = s.desc := rfl
@[simp] theorem spend_lockStatus (s : State) :
    (spend s).lockStatus = s.lockStatus := rfl
@[simp] theorem spend_lastStatus (s : State) :
    (spend s).lastStatus = s.lastStatus := rfl
@[simp] theorem spend_clockHz (s : State) :
    (spend s).clockHz = s.clockHz := rfl
@[simp] theorem spend_timeoutPolls (s : State) :
    (spend s).timeoutPolls = s.timeoutPolls := rfl
@[simp] theorem spend_req (s : State) :
    (spend s).req = s.req := rfl
@[simp] theorem spend_addr (s : State) :
    (spend s).addr = s.addr := rfl
@[simp] theorem spend_done (s : State) :
    (spend s).done = s.done := rfl
@[simp] theorem spend_polls (s : State) :
    (spend s).polls = s.polls := rfl
@[simp] theorem spend_cur (s : State) :
    (spend s).cur = s.cur := rfl
@[simp] theorem spend_acc (s : State) :
    (spend s).acc = s.acc := rfl
@[simp] theorem spend_response (s : State) :
    (spend s).response = s.response := rfl
@[simp] theorem spend_responsePending (s : State) :
    (spend s).responsePending = s.responsePending := rfl
@[simp] theorem spend_phase (s : State) :
    (spend s).phase = s.phase := rfl
@[simp] theorem spend_mutated (s : State) :
    (spend s).mutated = s.mutated := rfl
@[simp] theorem spend_chip (s : State) :
    (spend s).chip = s.chip := rfl
@[simp] theorem spend_port (s : State) :
    (spend s).port = s.port := rfl
@[simp] theorem spend_inbox (s : State) :
    (spend s).inbox = s.inbox := rfl
@[simp] theorem spend_delivered (s : State) :
    (spend s).delivered = s.delivered := rfl
@[simp] theorem spend_wire (s : State) :
    (spend s).wire = s.wire := rfl
@[simp] theorem spend_probeReply (s : State) :
    (spend s).probeReply = s.probeReply := rfl
@[simp] theorem spend_oracle (s : State) :
    (spend s).oracle = s.oracle.tail := rfl
@[simp] theorem spend_draws (s : State) :
    (spend s).draws = s.draws + 1 := rfl

/-! ### recordWire -/

@[simp] theorem recordWire_params (e : WireEvent) (s : State) :
    (recordWire e s).params = s.params := rfl
@[simp] theorem recordWire_seq (e : WireEvent) (s : State) :
    (recordWire e s).seq = s.seq := rfl
@[simp] theorem recordWire_handle (e : WireEvent) (s : State) :
    (recordWire e s).handle = s.handle := rfl
@[simp] theorem recordWire_desc (e : WireEvent) (s : State) :
    (recordWire e s).desc = s.desc := rfl
@[simp] theorem recordWire_lockStatus (e : WireEvent) (s : State) :
    (recordWire e s).lockStatus = s.lockStatus := rfl
@[simp] theorem recordWire_lastStatus (e : WireEvent) (s : State) :
    (recordWire e s).lastStatus = s.lastStatus := rfl
@[simp] theorem recordWire_clockHz (e : WireEvent) (s : State) :
    (recordWire e s).clockHz = s.clockHz := rfl
@[simp] theorem recordWire_timeoutPolls (e : WireEvent) (s : State) :
    (recordWire e s).timeoutPolls = s.timeoutPolls := rfl
@[simp] theorem recordWire_req (e : WireEvent) (s : State) :
    (recordWire e s).req = s.req := rfl
@[simp] theorem recordWire_addr (e : WireEvent) (s : State) :
    (recordWire e s).addr = s.addr := rfl
@[simp] theorem recordWire_done (e : WireEvent) (s : State) :
    (recordWire e s).done = s.done := rfl
@[simp] theorem recordWire_polls (e : WireEvent) (s : State) :
    (recordWire e s).polls = s.polls := rfl
@[simp] theorem recordWire_cur (e : WireEvent) (s : State) :
    (recordWire e s).cur = s.cur := rfl
@[simp] theorem recordWire_acc (e : WireEvent) (s : State) :
    (recordWire e s).acc = s.acc := rfl
@[simp] theorem recordWire_response (e : WireEvent) (s : State) :
    (recordWire e s).response = s.response := rfl
@[simp] theorem recordWire_responsePending (e : WireEvent) (s : State) :
    (recordWire e s).responsePending = s.responsePending := rfl
@[simp] theorem recordWire_phase (e : WireEvent) (s : State) :
    (recordWire e s).phase = s.phase := rfl
@[simp] theorem recordWire_mutated (e : WireEvent) (s : State) :
    (recordWire e s).mutated = s.mutated := rfl
@[simp] theorem recordWire_chip (e : WireEvent) (s : State) :
    (recordWire e s).chip = s.chip := rfl
@[simp] theorem recordWire_port (e : WireEvent) (s : State) :
    (recordWire e s).port = s.port := rfl
@[simp] theorem recordWire_inbox (e : WireEvent) (s : State) :
    (recordWire e s).inbox = s.inbox := rfl
@[simp] theorem recordWire_delivered (e : WireEvent) (s : State) :
    (recordWire e s).delivered = s.delivered := rfl
@[simp] theorem recordWire_wire (e : WireEvent) (s : State) :
    (recordWire e s).wire = e :: s.wire := rfl
@[simp] theorem recordWire_probeReply (e : WireEvent) (s : State) :
    (recordWire e s).probeReply = s.probeReply := rfl
@[simp] theorem recordWire_oracle (e : WireEvent) (s : State) :
    (recordWire e s).oracle = s.oracle := rfl
@[simp] theorem recordWire_draws (e : WireEvent) (s : State) :
    (recordWire e s).draws = s.draws := rfl

/-! ### recordStatus -/

@[simp] theorem recordStatus_params (d : Descriptor) (b : Byte) (s : State) :
    (recordStatus d b s).params = s.params := rfl
@[simp] theorem recordStatus_seq (d : Descriptor) (b : Byte) (s : State) :
    (recordStatus d b s).seq = s.seq := rfl
@[simp] theorem recordStatus_handle (d : Descriptor) (b : Byte) (s : State) :
    (recordStatus d b s).handle = s.handle := rfl
@[simp] theorem recordStatus_desc (d : Descriptor) (b : Byte) (s : State) :
    (recordStatus d b s).desc = s.desc := rfl
@[simp] theorem recordStatus_lockStatus (d : Descriptor) (b : Byte) (s : State) :
    (recordStatus d b s).lockStatus = lockOf d.bpMask b := rfl
@[simp] theorem recordStatus_lastStatus (d : Descriptor) (b : Byte) (s : State) :
    (recordStatus d b s).lastStatus = some b := rfl
@[simp] theorem recordStatus_clockHz (d : Descriptor) (b : Byte) (s : State) :
    (recordStatus d b s).clockHz = s.clockHz := rfl
@[simp] theorem recordStatus_timeoutPolls (d : Descriptor) (b : Byte) (s : State) :
    (recordStatus d b s).timeoutPolls = s.timeoutPolls := rfl
@[simp] theorem recordStatus_req (d : Descriptor) (b : Byte) (s : State) :
    (recordStatus d b s).req = s.req := rfl
@[simp] theorem recordStatus_addr (d : Descriptor) (b : Byte) (s : State) :
    (recordStatus d b s).addr = s.addr := rfl
@[simp] theorem recordStatus_done (d : Descriptor) (b : Byte) (s : State) :
    (recordStatus d b s).done = s.done := rfl
@[simp] theorem recordStatus_polls (d : Descriptor) (b : Byte) (s : State) :
    (recordStatus d b s).polls = s.polls := rfl
@[simp] theorem recordStatus_cur (d : Descriptor) (b : Byte) (s : State) :
    (recordStatus d b s).cur = s.cur := rfl
@[simp] theorem recordStatus_acc (d : Descriptor) (b : Byte) (s : State) :
    (recordStatus d b s).acc = s.acc := rfl
@[simp] theorem recordStatus_response (d : Descriptor) (b : Byte) (s : State) :
    (recordStatus d b s).response = s.response := rfl
@[simp] theorem recordStatus_responsePending (d : Descriptor) (b : Byte) (s : State) :
    (recordStatus d b s).responsePending = s.responsePending := rfl
@[simp] theorem recordStatus_phase (d : Descriptor) (b : Byte) (s : State) :
    (recordStatus d b s).phase = s.phase := rfl
@[simp] theorem recordStatus_mutated (d : Descriptor) (b : Byte) (s : State) :
    (recordStatus d b s).mutated = s.mutated := rfl
@[simp] theorem recordStatus_chip (d : Descriptor) (b : Byte) (s : State) :
    (recordStatus d b s).chip = s.chip := rfl
@[simp] theorem recordStatus_port (d : Descriptor) (b : Byte) (s : State) :
    (recordStatus d b s).port = s.port := rfl
@[simp] theorem recordStatus_inbox (d : Descriptor) (b : Byte) (s : State) :
    (recordStatus d b s).inbox = s.inbox := rfl
@[simp] theorem recordStatus_delivered (d : Descriptor) (b : Byte) (s : State) :
    (recordStatus d b s).delivered = s.delivered := rfl
@[simp] theorem recordStatus_wire (d : Descriptor) (b : Byte) (s : State) :
    (recordStatus d b s).wire = s.wire := rfl
@[simp] theorem recordStatus_probeReply (d : Descriptor) (b : Byte) (s : State) :
    (recordStatus d b s).probeReply = s.probeReply := rfl
@[simp] theorem recordStatus_oracle (d : Descriptor) (b : Byte) (s : State) :
    (recordStatus d b s).oracle = s.oracle := rfl
@[simp] theorem recordStatus_draws (d : Descriptor) (b : Byte) (s : State) :
    (recordStatus d b s).draws = s.draws := rfl

/-! ### popInbox -/

@[simp] theorem popInbox_params (s : State) :
    (popInbox s).params = s.params := rfl
@[simp] theorem popInbox_seq (s : State) :
    (popInbox s).seq = s.seq := rfl
@[simp] theorem popInbox_handle (s : State) :
    (popInbox s).handle = s.handle := rfl
@[simp] theorem popInbox_desc (s : State) :
    (popInbox s).desc = s.desc := rfl
@[simp] theorem popInbox_lockStatus (s : State) :
    (popInbox s).lockStatus = s.lockStatus := rfl
@[simp] theorem popInbox_lastStatus (s : State) :
    (popInbox s).lastStatus = s.lastStatus := rfl
@[simp] theorem popInbox_clockHz (s : State) :
    (popInbox s).clockHz = s.clockHz := rfl
@[simp] theorem popInbox_timeoutPolls (s : State) :
    (popInbox s).timeoutPolls = s.timeoutPolls := rfl
@[simp] theorem popInbox_req (s : State) :
    (popInbox s).req = s.req := rfl
@[simp] theorem popInbox_addr (s : State) :
    (popInbox s).addr = s.addr := rfl
@[simp] theorem popInbox_done (s : State) :
    (popInbox s).done = s.done := rfl
@[simp] theorem popInbox_polls (s : State) :
    (popInbox s).polls = s.polls := rfl
@[simp] theorem popInbox_cur (s : State) :
    (popInbox s).cur = s.cur := rfl
@[simp] theorem popInbox_acc (s : State) :
    (popInbox s).acc = s.acc := rfl
@[simp] theorem popInbox_response (s : State) :
    (popInbox s).response = s.response := rfl
@[simp] theorem popInbox_responsePending (s : State) :
    (popInbox s).responsePending = s.responsePending := rfl
@[simp] theorem popInbox_phase (s : State) :
    (popInbox s).phase = s.phase := rfl
@[simp] theorem popInbox_mutated (s : State) :
    (popInbox s).mutated = s.mutated := rfl
@[simp] theorem popInbox_chip (s : State) :
    (popInbox s).chip = s.chip := rfl
@[simp] theorem popInbox_port (s : State) :
    (popInbox s).port = s.port := rfl
@[simp] theorem popInbox_inbox (s : State) :
    (popInbox s).inbox = s.inbox.tail := rfl
@[simp] theorem popInbox_delivered (s : State) :
    (popInbox s).delivered = s.delivered := rfl
@[simp] theorem popInbox_wire (s : State) :
    (popInbox s).wire = s.wire := rfl
@[simp] theorem popInbox_probeReply (s : State) :
    (popInbox s).probeReply = s.probeReply := rfl
@[simp] theorem popInbox_oracle (s : State) :
    (popInbox s).oracle = s.oracle := rfl
@[simp] theorem popInbox_draws (s : State) :
    (popInbox s).draws = s.draws := rfl

/-! ### putOnPort -/

@[simp] theorem putOnPort_params (r : Request) (s : State) :
    (putOnPort r s).params = s.params := rfl
@[simp] theorem putOnPort_seq (r : Request) (s : State) :
    (putOnPort r s).seq = s.seq := rfl
@[simp] theorem putOnPort_handle (r : Request) (s : State) :
    (putOnPort r s).handle = s.handle := rfl
@[simp] theorem putOnPort_desc (r : Request) (s : State) :
    (putOnPort r s).desc = s.desc := rfl
@[simp] theorem putOnPort_lockStatus (r : Request) (s : State) :
    (putOnPort r s).lockStatus = s.lockStatus := rfl
@[simp] theorem putOnPort_lastStatus (r : Request) (s : State) :
    (putOnPort r s).lastStatus = s.lastStatus := rfl
@[simp] theorem putOnPort_clockHz (r : Request) (s : State) :
    (putOnPort r s).clockHz = s.clockHz := rfl
@[simp] theorem putOnPort_timeoutPolls (r : Request) (s : State) :
    (putOnPort r s).timeoutPolls = s.timeoutPolls := rfl
@[simp] theorem putOnPort_req (r : Request) (s : State) :
    (putOnPort r s).req = s.req := rfl
@[simp] theorem putOnPort_addr (r : Request) (s : State) :
    (putOnPort r s).addr = s.addr := rfl
@[simp] theorem putOnPort_done (r : Request) (s : State) :
    (putOnPort r s).done = s.done := rfl
@[simp] theorem putOnPort_polls (r : Request) (s : State) :
    (putOnPort r s).polls = s.polls := rfl
@[simp] theorem putOnPort_cur (r : Request) (s : State) :
    (putOnPort r s).cur = s.cur := rfl
@[simp] theorem putOnPort_acc (r : Request) (s : State) :
    (putOnPort r s).acc = s.acc := rfl
@[simp] theorem putOnPort_response (r : Request) (s : State) :
    (putOnPort r s).response = s.response := rfl
@[simp] theorem putOnPort_responsePending (r : Request) (s : State) :
    (putOnPort r s).responsePending = s.responsePending := rfl
@[simp] theorem putOnPort_phase (r : Request) (s : State) :
    (putOnPort r s).phase = s.phase := rfl
@[simp] theorem putOnPort_mutated (r : Request) (s : State) :
    (putOnPort r s).mutated = s.mutated := rfl
@[simp] theorem putOnPort_chip (r : Request) (s : State) :
    (putOnPort r s).chip = s.chip := rfl
@[simp] theorem putOnPort_port (r : Request) (s : State) :
    (putOnPort r s).port = r := rfl
@[simp] theorem putOnPort_inbox (r : Request) (s : State) :
    (putOnPort r s).inbox = s.inbox := rfl
@[simp] theorem putOnPort_delivered (r : Request) (s : State) :
    (putOnPort r s).delivered = s.delivered := rfl
@[simp] theorem putOnPort_wire (r : Request) (s : State) :
    (putOnPort r s).wire = s.wire := rfl
@[simp] theorem putOnPort_probeReply (r : Request) (s : State) :
    (putOnPort r s).probeReply = s.probeReply := rfl
@[simp] theorem putOnPort_oracle (r : Request) (s : State) :
    (putOnPort r s).oracle = s.oracle := rfl
@[simp] theorem putOnPort_draws (r : Request) (s : State) :
    (putOnPort r s).draws = s.draws := rfl

/-! ### exchanged -/

@[simp] theorem exchanged_params (cmd : Command) (s : State) :
    (exchanged cmd s).params = s.params := rfl
@[simp] theorem exchanged_seq (cmd : Command) (s : State) :
    (exchanged cmd s).seq = s.seq := rfl
@[simp] theorem exchanged_handle (cmd : Command) (s : State) :
    (exchanged cmd s).handle = s.handle := rfl
@[simp] theorem exchanged_desc (cmd : Command) (s : State) :
    (exchanged cmd s).desc = s.desc := rfl
@[simp] theorem exchanged_lockStatus (cmd : Command) (s : State) :
    (exchanged cmd s).lockStatus = s.lockStatus := rfl
@[simp] theorem exchanged_lastStatus (cmd : Command) (s : State) :
    (exchanged cmd s).lastStatus = s.lastStatus := rfl
@[simp] theorem exchanged_clockHz (cmd : Command) (s : State) :
    (exchanged cmd s).clockHz = s.clockHz := rfl
@[simp] theorem exchanged_timeoutPolls (cmd : Command) (s : State) :
    (exchanged cmd s).timeoutPolls = s.timeoutPolls := rfl
@[simp] theorem exchanged_req (cmd : Command) (s : State) :
    (exchanged cmd s).req = s.req := rfl
@[simp] theorem exchanged_addr (cmd : Command) (s : State) :
    (exchanged cmd s).addr = s.addr := rfl
@[simp] theorem exchanged_done (cmd : Command) (s : State) :
    (exchanged cmd s).done = s.done := rfl
@[simp] theorem exchanged_polls (cmd : Command) (s : State) :
    (exchanged cmd s).polls = s.polls := rfl
@[simp] theorem exchanged_cur (cmd : Command) (s : State) :
    (exchanged cmd s).cur = s.cur := rfl
@[simp] theorem exchanged_acc (cmd : Command) (s : State) :
    (exchanged cmd s).acc = s.acc := rfl
@[simp] theorem exchanged_response (cmd : Command) (s : State) :
    (exchanged cmd s).response = s.response := rfl
@[simp] theorem exchanged_responsePending (cmd : Command) (s : State) :
    (exchanged cmd s).responsePending = s.responsePending := rfl
@[simp] theorem exchanged_phase (cmd : Command) (s : State) :
    (exchanged cmd s).phase = s.phase := rfl
@[simp] theorem exchanged_mutated (cmd : Command) (s : State) :
    (exchanged cmd s).mutated = s.mutated := rfl
@[simp] theorem exchanged_chip (cmd : Command) (s : State) :
    (exchanged cmd s).chip = exchangeChip (nextChoice s) cmd s := rfl
@[simp] theorem exchanged_port (cmd : Command) (s : State) :
    (exchanged cmd s).port = s.port := rfl
@[simp] theorem exchanged_inbox (cmd : Command) (s : State) :
    (exchanged cmd s).inbox = s.inbox := rfl
@[simp] theorem exchanged_delivered (cmd : Command) (s : State) :
    (exchanged cmd s).delivered = s.delivered := rfl
@[simp] theorem exchanged_wire (cmd : Command) (s : State) :
    (exchanged cmd s).wire =
      .xfer cmd (encodeFrame (opcodesOf s) cmd) (responseLength cmd) (exchangeResult (nextChoice s) cmd s) :: s.wire := rfl
@[simp] theorem exchanged_probeReply (cmd : Command) (s : State) :
    (exchanged cmd s).probeReply = s.probeReply := rfl
@[simp] theorem exchanged_oracle (cmd : Command) (s : State) :
    (exchanged cmd s).oracle = s.oracle.tail := rfl
@[simp] theorem exchanged_draws (cmd : Command) (s : State) :
    (exchanged cmd s).draws = s.draws + 1 := rfl

/-! ### probe -/

@[simp] theorem probe_params (cmd : Command) (s : State) :
    (probe cmd s).params = s.params := rfl
@[simp] theorem probe_seq (cmd : Command) (s : State) :
    (probe cmd s).seq = s.seq := rfl
@[simp] theorem probe_handle (cmd : Command) (s : State) :
    (probe cmd s).handle = s.handle := rfl
@[simp] theorem probe_desc (cmd : Command) (s : State) :
    (probe cmd s).desc = s.desc := rfl
@[simp] theorem probe_lockStatus (cmd : Command) (s : State) :
    (probe cmd s).lockStatus = s.lockStatus := rfl
@[simp] theorem probe_lastStatus (cmd : Command) (s : State) :
    (probe cmd s).lastStatus = s.lastStatus := rfl
@[simp] theorem probe_clockHz (cmd : Command) (s : State) :
    (probe cmd s).clockHz = s.clockHz := rfl
@[simp] theorem probe_timeoutPolls (cmd : Command) (s : State) :
    (probe cmd s).timeoutPolls = s.timeoutPolls := rfl
@[simp] theorem probe_req (cmd : Command) (s : State) :
    (probe cmd s).req = s.req := rfl
@[simp] theorem probe_addr (cmd : Command) (s : State) :
    (probe cmd s).addr = s.addr := rfl
@[simp] theorem probe_done (cmd : Command) (s : State) :
    (probe cmd s).done = s.done := rfl
@[simp] theorem probe_polls (cmd : Command) (s : State) :
    (probe cmd s).polls = s.polls := rfl
@[simp] theorem probe_cur (cmd : Command) (s : State) :
    (probe cmd s).cur = s.cur := rfl
@[simp] theorem probe_acc (cmd : Command) (s : State) :
    (probe cmd s).acc = s.acc := rfl
@[simp] theorem probe_response (cmd : Command) (s : State) :
    (probe cmd s).response = s.response := rfl
@[simp] theorem probe_responsePending (cmd : Command) (s : State) :
    (probe cmd s).responsePending = s.responsePending := rfl
@[simp] theorem probe_phase (cmd : Command) (s : State) :
    (probe cmd s).phase = s.phase := rfl
@[simp] theorem probe_mutated (cmd : Command) (s : State) :
    (probe cmd s).mutated = s.mutated := rfl
@[simp] theorem probe_chip (cmd : Command) (s : State) :
    (probe cmd s).chip =
      chipReceives (nextChoice s) cmd (chipSettle (nextChoice s) s.chip) := rfl
@[simp] theorem probe_port (cmd : Command) (s : State) :
    (probe cmd s).port = s.port := rfl
@[simp] theorem probe_inbox (cmd : Command) (s : State) :
    (probe cmd s).inbox = s.inbox := rfl
@[simp] theorem probe_delivered (cmd : Command) (s : State) :
    (probe cmd s).delivered = s.delivered := rfl
@[simp] theorem probe_wire (cmd : Command) (s : State) :
    (probe cmd s).wire = s.wire := rfl
@[simp] theorem probe_probeReply (cmd : Command) (s : State) :
    (probe cmd s).probeReply =
      (List.range (responseLength cmd)).map (chipAnswers (nextChoice s) cmd (chipSettle (nextChoice s) s.chip)) := rfl
@[simp] theorem probe_oracle (cmd : Command) (s : State) :
    (probe cmd s).oracle = s.oracle.tail := rfl
@[simp] theorem probe_draws (cmd : Command) (s : State) :
    (probe cmd s).draws = s.draws + 1 := rfl

end Sys2Proof.Machine
end

