-- ==== Sys2Proof/Laws/Ops.lean ====
section
/-! SUPPORT. One lemma per shared operation that says everything it can do, for statements to cite instead of unfolding.
-/

namespace Sys2Proof.Machine

/-! ### Presenting a request -/

theorem present_accepted {r : Request} {admits : Seq → Bool} {begin : State → Outcome} {s : State}
    (h : accepting s = true) (ha : admits s.seq = true) : present r admits begin s = begin (accept r s) := by
  simp [present, h, ha]

theorem present_wrongState {r : Request} {admits : Seq → Bool} {begin : State → Outcome} {s : State}
    (h : accepting s = true) (ha : admits s.seq = false) :
    present r admits begin s = .next (refuseRequest .wrongState s) := by
  simp [present, h, ha]

theorem present_held {r : Request} {admits : Seq → Bool} {begin : State → Outcome} {s : State}
    (h : accepting s = false) : present r admits begin s = .next (hold r s) := by
  simp [present, h]

/-- Everything the presentation of a request can answer. -/
theorem present_cases {r : Request} {admits : Seq → Bool} {begin : State → Outcome} {s : State} {o : Outcome}
    (h : present r admits begin s = o) :
    (accepting s = false ∧ o = .next (hold r s))
      ∨ (accepting s = true ∧ admits s.seq = false ∧ o = .next (refuseRequest .wrongState s))
      ∨ (accepting s = true ∧ admits s.seq = true ∧ begin (accept r s) = o) := by
  subst h
  unfold present
  cases h1 : accepting s <;> cases h2 : admits s.seq <;> simp

theorem withDesc_some {f : Descriptor → State → State} {s : State} {d : Descriptor} (h : s.desc = some d) :
    withDesc f s = .next (f d s) := by
  simp [withDesc, h]

theorem withDesc_next {f : Descriptor → State → State} {s t : State} (h : withDesc f s = .next t) :
    ∃ d, s.desc = some d ∧ t = f d s := by
  unfold withDesc at h
  split at h
  · next d hd => exact ⟨d, hd, by injection h with h; exact h.symm⟩
  · cases h

theorem accepting_iff {s : State} : accepting s = true ↔ seqAccepts s.seq = true ∧ s.responsePending = false := by
  simp [accepting]

theorem admitsSession_iff {q : Seq} : admitsSession q = true ↔ q = .ready := by cases q <;> simp [admitsSession]

theorem admitsAttach_iff {q : Seq} : admitsAttach q = true ↔ q = .unattached := by cases q <;> simp [admitsAttach]

theorem admitsControl_iff {q : Seq} : admitsControl q = true ↔ q = .unattached ∨ q = .ready := by
  cases q <;> simp [admitsControl]

/-! ### Exchanges -/

@[simp] theorem exchangeReply_length (c : Choice) (cmd : Command) (s : State) :
    (exchangeReply c cmd s).length = responseLength cmd := by
  simp [exchangeReply]

theorem exchangeResult_some {c : Choice} {cmd : Command} {s : State} {r : List Byte} :
    exchangeResult c cmd s = some r ↔ c.xferFails = false ∧ r = exchangeReply c cmd s := by
  unfold exchangeResult
  cases c.xferFails <;> simp [eq_comm]

theorem exchangeResult_none {c : Choice} {cmd : Command} {s : State} :
    exchangeResult c cmd s = none ↔ c.xferFails = true := by
  unfold exchangeResult
  cases c.xferFails <;> simp

/-- Everything a command of the codec can do. -/
theorem sendCommand_cases (cmd : Command) (s : State) :
    (s.handle = .none ∧ sendCommand cmd s = probe cmd s)
      ∨ (s.handle = .open ∧ (nextChoice s).xferFails = false
          ∧ sendCommand cmd s = resume cmd (exchangeReply (nextChoice s) cmd s) (exchanged cmd s))
      ∨ (s.handle = .open ∧ (nextChoice s).xferFails = true ∧ sendCommand cmd s = abandon (exchanged cmd s)) := by
  unfold sendCommand
  cases hh : s.handle with
  | none => simp
  | _ =>
    cases hx : (nextChoice s).xferFails <;> simp [exchangeResult, hx]

/-- Every command's arm of exec sends that command. -/
theorem exec_commandInstr (cmd : Command) (s : State) : exec (commandInstr cmd) s = .next (sendCommand cmd s) := by
  cases cmd <;> rfl

/-! ### Requests -/

/-- Every request is presented to the block, with the states that accept it. -/
theorem exec_presents {i : Instr} {states : List Seq} (h : acceptedIn i = some states) :
    ∃ begin : State → Outcome, ∀ s, exec i s = present (portRecord i s) (fun q => decide (q ∈ states)) begin s := by
  have ea : admitsAttach = fun q => decide (q ∈ [Seq.unattached]) := by funext q; cases q <;> rfl
  have ec : admitsControl = fun q => decide (q ∈ [Seq.unattached, Seq.ready]) := by funext q; cases q <;> rfl
  have es : admitsSession = fun q => decide (q ∈ [Seq.ready]) := by funext q; cases q <;> rfl
  cases i <;> cases h
  case attach => exact ⟨fun s => .next { s with seq := .identifying, phase := .openLink }, fun s => by rw [← ea]; rfl⟩
  case release =>
    exact ⟨fun s => .next (succeed .empty
      (if s.seq = .ready then { recordWire .close s with handle := .none, seq := .released }
       else { s with seq := .released })), fun s => by rw [← ec]; rfl⟩
  case setTimeout v =>
    exact ⟨fun s => .next (succeed .empty { s with timeoutPolls := if v = 0 then none else some v.toNat }),
      fun s => by rw [← ec]; rfl⟩
  case frequency => exact ⟨fun s => .next (succeed (.clock s.clockHz) s), fun s => by rw [← es]; rfl⟩
  all_goals exact ⟨_, fun s => by rw [← es]; rfl⟩

/-- A session request of a ready block begins. -/
theorem present_ready {r : Request} {f : Descriptor → State → State} {s : State} {d : Descriptor} (h : readyWith d s) :
    present r admitsSession (withDesc f) s = .next (f d (accept r s)) := by
  obtain ⟨hq, hr, hd⟩ := h
  rw [present_accepted (by simp [accepting, hq, hr, seqAccepts]) (by rw [hq]; rfl), withDesc_some (by exact hd)]

theorem exec_status_ready {s : State} {d : Descriptor} (h : readyWith d s) :
    exec .status s = .next (statusExchange d (accept (portRecord .status s) s)) := present_ready h

theorem exec_erase_ready {s : State} {d : Descriptor} {o n : BitVec 32} {b e : Bool} (h : readyWith d s) :
    exec (.erase o n b e) s = .next (beginErase o.toNat n.toNat b e d (accept (portRecord (.erase o n b e) s) s)) :=
  present_ready h

theorem exec_read_ready {s : State} {d : Descriptor} {o n : BitVec 32} (h : readyWith d s) :
    exec (.read o n) s = .next (beginRead o.toNat n.toNat d (accept (portRecord (.read o n) s) s)) := present_ready h

theorem exec_write_ready {s : State} {d : Descriptor} {o : BitVec 32} {data : List Byte} (h : readyWith d s) :
    exec (.write o data) s = .next (beginWrite o.toNat data.length d (accept (portRecord (.write o data) s) s)) :=
  present_ready h

/-! ### What each request latches -/

@[simp] theorem latched_attach (vid pid : BitVec 16) (ifidx : BitVec 8) (s : State) :
    latched (portRecord (.attach vid pid ifidx) s) = { latched s.port with op := 0x0, vid := vid, pid := pid, ifidx := ifidx } := rfl
@[simp] theorem latched_release (s : State) :
    latched (portRecord .release s) = { latched s.port with op := 0x1 } := rfl
@[simp] theorem latched_size (s : State) :
    latched (portRecord .size s) = { latched s.port with op := 0x2 } := rfl
@[simp] theorem latched_name (s : State) :
    latched (portRecord .name s) = { latched s.port with op := 0x3 } := rfl
@[simp] theorem latched_frequency (s : State) :
    latched (portRecord .frequency s) = { latched s.port with op := 0x4 } := rfl
@[simp] theorem latched_flags (s : State) :
    latched (portRecord .flags s) = { latched s.port with op := 0x5 } := rfl
@[simp] theorem latched_status (s : State) :
    latched (portRecord .status s) = { latched s.port with op := 0x6 } := rfl
@[simp] theorem latched_setTimeout (t : BitVec 32) (s : State) :
    latched (portRecord (.setTimeout t) s) = { latched s.port with op := 0x7, timeout := if t = 0 then none else some t } := rfl
@[simp] theorem latched_unlock (s : State) :
    latched (portRecord .unlock s) = { latched s.port with op := 0x8 } := rfl
@[simp] theorem latched_erase (o n : BitVec 32) (b e : Bool) (s : State) :
    latched (portRecord (.erase o n b e) s) = { latched s.port with op := 0x9, offset := o, length := n, bulk := b, bestEffort := e } := rfl
@[simp] theorem latched_read (o n : BitVec 32) (s : State) :
    latched (portRecord (.read o n) s) = { latched s.port with op := 0xA, offset := o, length := n } := rfl
@[simp] theorem latched_write (o : BitVec 32) (d : List Byte) (s : State) :
    latched (portRecord (.write o d) s) = { latched s.port with op := 0xB, offset := o, data := d } := rfl

/-- A session request of a ready block latches its record, whatever it leads to. -/
theorem present_ready_latches {r : Request} {f : Descriptor → State → State} {s : State} {d : Descriptor}
    (h : readyWith d s) (hf : ∀ a, (f d a).req = a.req) :
    ∃ t, present r admitsSession (withDesc f) s = .next t ∧ t.req = latched r := ⟨_, present_ready h, hf _⟩

/-- So does a request that needs no descriptor. -/
theorem present_admitted_latches {r : Request} {admits : Seq → Bool} {f : State → State} {s : State}
    (h : accepting s = true) (ha : admits s.seq = true) (hf : ∀ a, (f a).req = a.req) :
    ∃ t, present r admits (fun a => .next (f a)) s = .next t ∧ t.req = latched r :=
  ⟨f (accept r s), by rw [present_accepted h ha], hf _⟩

/-- Every accepted request answers a next state and has latched the record on the port (10_state.md R46). -/
theorem exec_latches {i : Instr} {states : List Seq} {s : State} (hi : acceptedIn i = some states)
    (ha : accepting s = true) (hq : s.seq ∈ states) (hds : s.seq = .ready → s.desc ≠ none) :
    ∃ t, exec i s = .next t ∧ t.req = latched (portRecord i s) := by
  have hsess : s.seq ∈ [Seq.ready] → ∃ d, readyWith d s := fun h => by
    have h := List.mem_singleton.1 h
    obtain ⟨d, hd⟩ := Option.ne_none_iff_exists'.1 (hds h)
    exact ⟨d, h, (accepting_iff.1 ha).2, hd⟩
  have hcontrol : s.seq ∈ [Seq.unattached, Seq.ready] → admitsControl s.seq = true := fun h =>
    admitsControl_iff.2 (by simpa using h)
  cases i <;> cases hi
  case attach =>
    exact present_admitted_latches (f := fun a => { a with seq := .identifying, phase := .openLink }) ha
      (admitsAttach_iff.2 (List.mem_singleton.1 hq)) fun _ => rfl
  case release =>
    refine present_admitted_latches (f := fun a => succeed .empty
      (if a.seq = .ready then { recordWire .close a with handle := .none, seq := .released }
       else { a with seq := .released })) ha (hcontrol hq) fun a => ?_
    rw [succeed_req]
    split <;> rfl
  case setTimeout v =>
    exact present_admitted_latches
      (f := fun a => succeed .empty { a with timeoutPolls := if v = 0 then none else some v.toNat }) ha (hcontrol hq)
      fun _ => rfl
  case frequency =>
    exact present_admitted_latches (f := fun a => succeed (.clock a.clockHz) a) ha
      (admitsSession_iff.2 (List.mem_singleton.1 hq)) fun _ => rfl
  all_goals obtain ⟨d, hd⟩ := hsess hq
  case status => exact present_ready_latches hd fun a => by unfold statusExchange; split <;> rfl
  case unlock => exact present_ready_latches hd fun a => by split <;> rfl
  case erase => exact present_ready_latches hd fun a => by unfold beginErase; (repeat' split) <;> rfl
  case read => exact present_ready_latches hd fun a => by unfold beginRead; (repeat' split) <;> rfl
  case write => exact present_ready_latches hd fun a => by unfold beginWrite; (repeat' split) <;> rfl
  all_goals exact present_ready_latches hd fun a => rfl

end Sys2Proof.Machine
end

