-- ==== Sys2Proof/Laws/Chip.lean ====
section
/-! SUPPORT. The laws of the chip: what a store reads back as, and that every operation on the chip keeps its array
canonical. -/

namespace Sys2Proof.Machine

/-- The chip's array is canonical. -/
abbrev chipWf (ch : Chip) : Prop := memWf (chipBackground ch) ch.mem

/-- Reading any address after a store. -/
theorem chipByte_chipStore {ch : Chip} (h : chipWf ch) (lo n : Nat) (f : Nat → Byte) (x : Nat) :
    chipByte (chipStore ch lo n f) x = if lo ≤ x ∧ x < lo + n then f x else chipByte ch x :=
  memRead_memUpdate h lo f n x

theorem chipStore_wf {ch : Chip} (h : chipWf ch) (lo n : Nat) (f : Nat → Byte) : chipWf (chipStore ch lo n f) :=
  memUpdate_wf lo f n h

theorem chipUnspecified_wf (c : Choice) (ch : Chip) : chipWf (chipUnspecified c ch) := memWf_nil _

theorem chipDrawn_wf (reg : List Descriptor) (c : Choice) : chipWf (Chip.drawn reg c) := memWf_nil _

@[simp] theorem chipByte_chipSettle (c : Choice) (ch : Chip) (x : Nat) : chipByte (chipSettle c ch) x = chipByte ch x := by
  unfold chipSettle
  split <;> rfl

@[simp] theorem chipSettle_geom (c : Choice) (ch : Chip) : (chipSettle c ch).geom = ch.geom := by
  unfold chipSettle
  split <;> rfl

@[simp] theorem chipSettle_id (c : Choice) (ch : Chip) : (chipSettle c ch).id = ch.id := by
  unfold chipSettle
  split <;> rfl

@[simp] theorem chipSettle_bp (c : Choice) (ch : Chip) : (chipSettle c ch).bp = ch.bp := by
  unfold chipSettle
  split <;> rfl

/-- Busy after the internal step: it was, and the command did not complete. -/
theorem chipSettle_busy (c : Choice) (ch : Chip) : (chipSettle c ch).busy = (ch.busy && !c.completes) := by
  unfold chipSettle
  cases h : ch.busy <;> cases c.completes <;> simp [h]

theorem chipSettle_of_idle {c : Choice} {ch : Chip} (h : ch.busy = false) : chipSettle c ch = ch := by
  simp [chipSettle, h]

theorem chipSettle_of_stays {c : Choice} {ch : Chip} (h : c.completes = false) : chipSettle c ch = ch := by
  simp [chipSettle, h]

theorem chipSettle_wf {c : Choice} {ch : Chip} (h : chipWf ch) : chipWf (chipSettle c ch) := by
  unfold chipSettle
  split <;> exact h

theorem chipWrsr_wf {c : Choice} {g : Descriptor} {v : Byte} {ch : Chip} (h : chipWf ch) : chipWf (chipWrsr c g v ch) := by
  unfold chipWrsr
  split
  · split <;> exact h
  · exact h

theorem chipUnprotectedOpen_wf {c : Choice} {g : Descriptor} {ch : Chip} : chipWf (chipUnprotectedOpen c g ch) :=
  chipStore_wf (chipUnspecified_wf c ch) _ _ _

/-- R265 where nothing else of the chip is known. -/
theorem chipByte_chipUnprotectedOpen {c : Choice} {g : Descriptor} {ch : Chip} {x : Nat} (hx : x < g.size)
    (hp : protectedByte g ch x = true) : chipByte (chipUnprotectedOpen c g ch) x = chipByte ch x := by
  unfold chipUnprotectedOpen
  rw [chipByte_chipStore (chipUnspecified_wf c ch), if_pos ⟨Nat.zero_le x, by omega⟩, if_pos hp]

theorem chipSe_wf {c : Choice} {g : Descriptor} {a : Nat} {ch : Chip} (h : chipWf ch) : chipWf (chipSe c g a ch) := by
  unfold chipSe
  split
  · split
    · split
      · exact h
      · exact chipStore_wf h _ _ _
    · exact chipUnprotectedOpen_wf
  · exact h

theorem chipBe_wf {c : Choice} {g : Descriptor} {ch : Chip} (h : chipWf ch) : chipWf (chipBe c g ch) := by
  unfold chipBe
  split
  · split
    · exact h
    · exact chipStore_wf h _ _ _
  · exact h

theorem chipPp_wf {c : Choice} {g : Descriptor} {a : Nat} {data : List Byte} {ch : Chip} (h : chipWf ch) :
    chipWf (chipPp c g a data ch) := by
  unfold chipPp
  split
  · split
    · split
      · split
        · exact h
        · exact chipStore_wf h _ _ _
      · exact chipStore_wf h _ _ _
    · exact chipUnprotectedOpen_wf
  · exact h

/-- A frame received whole keeps the array canonical. -/
theorem chipCommand_wf {c : Choice} {g : Descriptor} {cmd : Command} {ch : Chip} (h : chipWf ch) :
    chipWf (chipCommand c g cmd ch) := by
  cases cmd <;> simp only [chipCommand]
  case rdid | rdsr | readData => exact h
  all_goals
    split
    · exact chipUnspecified_wf c ch
    · first
        | exact h
        | exact chipWrsr_wf h
        | exact chipSe_wf h
        | exact chipBe_wf h
        | exact chipPp_wf h

theorem chipReceives_wf {c : Choice} {cmd : Command} {ch : Chip} (h : chipWf ch) : chipWf (chipReceives c cmd ch) := by
  unfold chipReceives
  split
  · exact chipCommand_wf h
  · cases cmd <;> first | exact h | exact chipUnspecified_wf c ch

/-- A frame whose exchange failed keeps the array canonical. -/
theorem chipTorn_wf {c : Choice} {g : Descriptor} {cmd : Command} {ch : Chip} (h : chipWf ch) :
    chipWf (chipTorn c g cmd ch) := by
  cases cmd <;> simp only [chipTorn]
  case rdid | rdsr | readData | wren | wrdi | wrsr => exact h
  case be => exact chipStore_wf h _ _ _
  all_goals
    split
    · exact chipStore_wf h _ _ _
    · exact chipUnprotectedOpen_wf

theorem chipFails_wf {c : Choice} {cmd : Command} {ch : Chip} (h : chipWf ch) : chipWf (chipFails c cmd ch) := by
  unfold chipFails
  split <;> first
    | exact h
    | (split
       · split
         · exact chipUnspecified_wf c ch
         · exact chipTorn_wf h
       · exact chipUnspecified_wf c ch)

/-- The block's exchange keeps the array canonical. -/
theorem exchangeChip_wf {c : Choice} {cmd : Command} {s : State} (h : chipWf s.chip) : chipWf (exchangeChip c cmd s) := by
  unfold exchangeChip
  split
  · exact chipUnspecified_wf _ _
  · split
    · exact chipFails_wf (chipSettle_wf h)
    · exact chipReceives_wf (chipSettle_wf h)

/-- Reset memory is canonical. -/
theorem memWf_reset : chipWf State.reset.chip := chipDrawn_wf _ _

/-! ### What a command does to a chip its descriptor describes -/

theorem mismatched_of_geom {s : State} {d : Descriptor} (hd : s.desc = some d) (hg : s.chip.geom = some d) :
    mismatched s = false := by
  simp [mismatched, hd, hg]

/-- The session's descriptor agrees with the chip where there is none yet, or it is the chip's own. -/
theorem mismatched_eq_false {s : State} : mismatched s = false ↔ s.desc = none ∨ s.desc = s.chip.geom := by
  cases hd : s.desc with
  | none => simp [mismatched, hd]
  | some d => simp only [mismatched, hd, decide_eq_false_iff_not, not_not, reduceCtorEq, false_or]; exact eq_comm

/-- The block's exchange that succeeds, with a chip its descriptor agrees with. -/
theorem exchangeChip_of_agrees {c : Choice} {cmd : Command} {s : State} (h : mismatched s = false)
    (hx : c.xferFails = false) : exchangeChip c cmd s = chipReceives c cmd (chipSettle c s.chip) := by
  simp [exchangeChip, h, hx]

/-- Its answer. -/
theorem exchangeReply_of_agrees {c : Choice} {cmd : Command} {s : State} (h : mismatched s = false) :
    exchangeReply c cmd s = (List.range (responseLength cmd)).map (chipAnswers c cmd (chipSettle c s.chip)) := by
  simp [exchangeReply, h]

/-- The block's exchange with the chip it is attached to. -/
theorem exchangeChip_of_geom {c : Choice} {cmd : Command} {s : State} {d : Descriptor} (hd : s.desc = some d)
    (hg : s.chip.geom = some d) (hx : c.xferFails = false) :
    exchangeChip c cmd s = chipCommand c d cmd (chipSettle c s.chip) := by
  rw [exchangeChip_of_agrees (mismatched_of_geom hd hg) hx]
  simp [chipReceives, hg]

/-- Its answer. -/
theorem exchangeReply_of_geom {c : Choice} {cmd : Command} {s : State} {d : Descriptor} (hd : s.desc = some d)
    (hg : s.chip.geom = some d) :
    exchangeReply c cmd s = (List.range (responseLength cmd)).map (replyByte c d cmd (chipSettle c s.chip)) := by
  rw [exchangeReply_of_agrees (mismatched_of_geom hd hg)]
  simp [chipAnswers, hg]

/-- RDID leaves any chip as it is, and is answered by it with its code, or with drawn bytes while busy (R252, R267). -/
theorem chipReceives_rdid (c : Choice) (ch : Chip) : chipReceives c .rdid ch = ch := by
  unfold chipReceives
  split <;> rfl

theorem chipAnswers_rdid (c : Choice) (ch : Chip) (i : Nat) :
    chipAnswers c .rdid ch i = if ch.busy then Config.freeByte c.epoch i else ch.id.getD i 0 := by
  unfold chipAnswers
  split <;> rfl

theorem getLsbD_zero_of_mask {m : Byte} (h : m &&& 1 = 0) : m.getLsbD 0 = false := by
  have h1 : (m &&& 1).getLsbD 0 = false := by rw [h]; rfl
  rw [BitVec.getLsbD_and, show (1 : Byte).getLsbD 0 = true from rfl, Bool.and_true] at h1
  exact h1

/-- The status byte shows busy in bit 0, for a mask that leaves that bit out. -/
theorem statusByte_busy {c : Choice} {g : Descriptor} {ch : Chip} (h : g.bpMask &&& 1 = 0) :
    statusBusy (statusByte c g ch) = ch.busy := by
  have e1 : (1 : Byte).getLsbD 0 = true := rfl
  unfold statusBusy statusByte
  simp only [BitVec.getLsbD_or, BitVec.getLsbD_and, BitVec.getLsbD_not, getLsbD_zero_of_mask h, e1]
  cases ch.busy
  · simp [-BitVec.getLsbD_eq_getElem]
  · simp [-BitVec.getLsbD_eq_getElem]

/-- The status byte shows the protect bits. -/
theorem statusByte_protect {c : Choice} {g : Descriptor} {ch : Chip} (h : g.bpMask &&& 1 = 0) :
    statusByte c g ch &&& g.bpMask = ch.bp &&& g.bpMask := by
  have hm : (1 : Byte) &&& g.bpMask = 0 := by rw [BitVec.and_comm]; exact h
  have hz : ((if ch.busy then 1 else 0 : Byte) &&& g.bpMask) = 0 := by
    cases ch.busy
    · simp
    · exact hm
  have hv : c.vendor &&& ~~~(g.bpMask ||| 1) &&& g.bpMask = 0 := by
    apply BitVec.eq_of_getLsbD_eq
    intro i hi
    simp only [BitVec.getLsbD_and, BitVec.getLsbD_or, BitVec.getLsbD_not]
    cases g.bpMask.getLsbD i <;> simp
  unfold statusByte
  rw [BitVec.and_or_distrib_right, BitVec.and_or_distrib_right, hz, hv, BitVec.and_assoc, BitVec.and_self]
  simp

/-! ### Protected ranges and pages -/

/-- A range with no protected byte. -/
theorem protectedRange_false {g : Descriptor} {ch : Chip} {lo n : Nat}
    (h : ∀ x, lo ≤ x → x < lo + n → protectedByte g ch x = false) :
    protectedRange g ch lo n = false := by
  unfold protectedRange
  rw [Bool.and_eq_false_iff]
  right
  rw [List.any_eq_false]
  intro i hi
  rw [h (lo + i) (by omega) (by have := List.mem_range.1 hi; omega)]
  simp

/-- A range with one. -/
theorem protectedRange_true {g : Descriptor} {ch : Chip} {lo n x : Nat} (h1 : lo ≤ x) (h2 : x < lo + n)
    (h : protectedByte g ch x = true) :
    protectedRange g ch lo n = true := by
  unfold protectedRange
  rw [Bool.and_eq_true]
  refine ⟨?_, ?_⟩
  · unfold protectedByte at h; rw [Bool.and_eq_true] at h; exact h.1
  · rw [List.any_eq_true]
    exact ⟨x - lo, List.mem_range.2 (by omega), by rw [show lo + (x - lo) = x by omega]; exact h⟩

/-- Payload byte `i` lands on its address. -/
theorem pageIndex_hit {P a i : Nat} (hP : 0 < P) (hi : i < P) :
    pageIndex P a (a / P * P + (a % P + i) % P) = i := by
  unfold pageIndex
  have e1 : (a / P * P + (a % P + i) % P) % P = (a % P + i) % P := by
    rw [Nat.add_comm, Nat.add_mul_mod_self_right, Nat.mod_mod]
  rw [e1]
  have ha : a % P < P := Nat.mod_lt _ hP
  by_cases hlt : a % P + i < P
  · rw [Nat.mod_eq_of_lt hlt, show a % P + i + P - a % P = i + P by omega, Nat.add_mod_right, Nat.mod_eq_of_lt hi]
  · rw [show (a % P + i) % P = a % P + i - P by
      rw [Nat.mod_eq_sub_mod (by omega), Nat.mod_eq_of_lt (by omega)],
      show a % P + i - P + P - a % P = i by omega, Nat.mod_eq_of_lt hi]

/-- And every address of the page is some payload index's. -/
theorem pageIndex_inv {P a x : Nat} (hP : 0 < P) (h1 : a / P * P ≤ x) (h2 : x < a / P * P + P) :
    pageIndex P a x < P ∧ x = a / P * P + (a % P + pageIndex P a x) % P := by
  unfold pageIndex
  refine ⟨Nat.mod_lt _ hP, ?_⟩
  obtain ⟨t, rfl⟩ := Nat.exists_eq_add_of_le h1
  have ht : t < P := by omega
  have e1 : (a / P * P + t) % P = t := by
    rw [Nat.add_comm, Nat.add_mul_mod_self_right, Nat.mod_eq_of_lt ht]
  rw [e1]
  congr 1
  have ha : a % P < P := Nat.mod_lt _ hP
  by_cases hlt : t < a % P
  · rw [Nat.mod_eq_of_lt (show t + P - a % P < P by omega), show a % P + (t + P - a % P) = t + P by omega,
      Nat.add_mod_right, Nat.mod_eq_of_lt ht]
  · rw [show (t + P - a % P) % P = t - a % P by
      rw [Nat.mod_eq_sub_mod (by omega), Nat.mod_eq_of_lt (by omega)]; omega,
      show a % P + (t - a % P) = t by omega, Nat.mod_eq_of_lt ht]

/-! ### Decoded status -/

theorem lockOf_eq (m b : Byte) : lockOf m b = if b &&& m = 0 then .unlocked else .locked := by
  unfold lockOf statusProtected
  by_cases h : b &&& m = 0
  · rw [if_pos h, if_neg (by simpa using h)]
  · rw [if_neg h, if_pos (by simpa using h)]

theorem statusProtected_iff {m b : Byte} : statusProtected m b = true ↔ b &&& m ≠ 0 := by simp [statusProtected]

theorem statusProtected_eq_false {m b : Byte} : statusProtected m b = false ↔ b &&& m = 0 := by simp [statusProtected]

theorem inRange_iff {size o n : Nat} : inRange size o n = true ↔ o + n ≤ size := by simp [inRange]

theorem sectorAligned_iff {S o n : Nat} : sectorAligned S o n = true ↔ o % S = 0 ∧ n % S = 0 := by simp [sectorAligned]

theorem useBulk_iff {d : Descriptor} {o n : Nat} {b : Bool} :
    useBulk d o n b = true ↔ b = true ∧ d.supportsBulk = true ∧ o = 0 ∧ n = d.size := by
  simp [useBulk, and_assoc]

/-- The address field holds every address of the 24-bit space. -/
theorem addrField_toNat {a : Nat} (h : a < 2 ^ 24) : (addrField a).toNat = a := by
  simp only [addrField, BitVec.toNat_ofNat]
  exact Nat.mod_eq_of_lt h

end Sys2Proof.Machine
end

