-- ==== Sys2Proof/Laws/PerInstr.lean ====
section
/-! SUPPORT. The statement made of every instruction, one lemma per constructor: the form of its encoding. -/

namespace Sys2Proof.Laws.Form

open Sys2Proof Sys2Proof.Machine

/-- A request encodes to a record with one of the twelve op codes and is accepted in some sequencer state
(30_encoding.md R101, 42_session_control.md R190); a command encodes to a frame that starts with one of the nine opcode
bytes, is at least one byte long, and no sequencer state accepts it as a request (30_encoding.md R108, R109). -/
def Statement (i : Instr) : Prop :=
  ∀ ops : Opcodes,
    match encode ops i with
    | .request r => r.op.toNat < 12 ∧ acceptedIn i ≠ none
    | .frame w _ => (∃ op rest, w = op :: rest ∧ op ∈ opcodeList ops) ∧ acceptedIn i = none

theorem attach (vid pid : BitVec 16) (ifidx : BitVec 8) : Statement (.attach vid pid ifidx) :=
  fun _ => ⟨(by decide : (0x0 : BitVec 4).toNat < 12), by simp [acceptedIn]⟩
theorem release : Statement .release := fun _ => ⟨(by decide : (0x1 : BitVec 4).toNat < 12), by simp [acceptedIn]⟩
theorem size : Statement .size := fun _ => ⟨(by decide : (0x2 : BitVec 4).toNat < 12), by simp [acceptedIn]⟩
theorem name : Statement .name := fun _ => ⟨(by decide : (0x3 : BitVec 4).toNat < 12), by simp [acceptedIn]⟩
theorem frequency : Statement .frequency := fun _ => ⟨(by decide : (0x4 : BitVec 4).toNat < 12), by simp [acceptedIn]⟩
theorem flags : Statement .flags := fun _ => ⟨(by decide : (0x5 : BitVec 4).toNat < 12), by simp [acceptedIn]⟩
theorem status : Statement .status := fun _ => ⟨(by decide : (0x6 : BitVec 4).toNat < 12), by simp [acceptedIn]⟩
theorem setTimeout (timeout : BitVec 32) : Statement (.setTimeout timeout) :=
  fun _ => ⟨(by decide : (0x7 : BitVec 4).toNat < 12), by simp [acceptedIn]⟩
theorem unlock : Statement .unlock := fun _ => ⟨(by decide : (0x8 : BitVec 4).toNat < 12), by simp [acceptedIn]⟩
theorem erase (offset length : BitVec 32) (bulk bestEffort : Bool) : Statement (.erase offset length bulk bestEffort) :=
  fun _ => ⟨(by decide : (0x9 : BitVec 4).toNat < 12), by simp [acceptedIn]⟩
theorem read (offset length : BitVec 32) : Statement (.read offset length) :=
  fun _ => ⟨(by decide : (0xA : BitVec 4).toNat < 12), by simp [acceptedIn]⟩
theorem write (offset : BitVec 32) (data : List Byte) : Statement (.write offset data) :=
  fun _ => ⟨(by decide : (0xB : BitVec 4).toNat < 12), by simp [acceptedIn]⟩
theorem rdid : Statement .rdid := fun _ => ⟨⟨_, _, rfl, by simp [opcodeList]⟩, rfl⟩
theorem rdsr : Statement .rdsr := fun _ => ⟨⟨_, _, rfl, by simp [opcodeList]⟩, rfl⟩
theorem wren : Statement .wren := fun _ => ⟨⟨_, _, rfl, by simp [opcodeList]⟩, rfl⟩
theorem wrdi : Statement .wrdi := fun _ => ⟨⟨_, _, rfl, by simp [opcodeList]⟩, rfl⟩
theorem wrsr (value : Byte) : Statement (.wrsr value) := fun _ => ⟨⟨_, _, rfl, by simp [opcodeList]⟩, rfl⟩
theorem se (addr : FlashAddr) : Statement (.se addr) := fun _ => ⟨⟨_, _, rfl, by simp [opcodeList]⟩, rfl⟩
theorem be : Statement .be := fun _ => ⟨⟨_, _, rfl, by simp [opcodeList]⟩, rfl⟩
theorem pp (addr : FlashAddr) (data : List Byte) : Statement (.pp addr data) :=
  fun _ => ⟨⟨_, _, rfl, by simp [opcodeList]⟩, rfl⟩
theorem readData (addr : FlashAddr) (count : Nat) : Statement (.readData addr count) :=
  fun _ => ⟨⟨_, _, rfl, by simp [opcodeList]⟩, rfl⟩

end Sys2Proof.Laws.Form
end

