-- ==== Sys2Proof/Laws/Registry.lean ====
section
/-! SUPPORT. What well-formed parameters give, and what a lookup that finds something found. -/

namespace Sys2Proof.Machine

theorem builtParams_wf : paramsWf builtParams = true := by
  unfold builtParams
  split
  · assumption
  · decide

/-- A lookup that succeeds answers an entry of the registry with that code. -/
theorem resolve_mem {reg : List Descriptor} {code : List Byte} {d : Descriptor} (h : resolve reg code = some d) :
    d ∈ reg ∧ d.id = code := by
  induction reg with
  | nil => cases h
  | cons e es ih =>
    unfold resolve at h
    split at h
    · next he => cases h; exact ⟨by simp, he⟩
    · obtain ⟨h1, h2⟩ := ih h
      exact ⟨List.mem_cons_of_mem _ h1, h2⟩

/-- The geometry of a well-formed descriptor (40_registry.md R141). -/
structure Geometry (maxWriteFrame : Nat) (d : Descriptor) : Prop where
  sector_pos : 0 < d.sectorSize
  page_pos : 0 < d.pageSize
  sectors : d.size % d.sectorSize = 0
  pages : d.sectorSize % d.pageSize = 0
  size_le : d.size ≤ 2 ^ 24
  page_le : d.pageSize ≤ d.sectorSize
  frame_le : 4 + d.pageSize ≤ maxWriteFrame
  mask : d.bpMask &&& 1 = 0
  opcodes : opcodesWf d.ops = true

theorem descriptorWf_geometry {m : Nat} {d : Descriptor} (h : descriptorWf m d = true) : Geometry m d := by
  simp only [descriptorWf, Bool.and_eq_true, decide_eq_true_eq, powerOfTwo, List.any_eq_true, List.mem_range] at h
  obtain ⟨⟨⟨⟨⟨⟨⟨⟨⟨⟨⟨⟨⟨⟨h1, h2⟩, h3⟩, h4⟩, h5⟩, ⟨k, hk, h6⟩⟩, ⟨l, hl, h7⟩⟩, h8⟩, h9⟩, h10⟩, h11⟩, h12⟩, h13⟩, h14⟩, h15⟩ := h
  have h8' := h8
  rw [h6, h7] at h8'
  have hkl : l ≤ k := (Nat.pow_le_pow_iff_right (by omega)).1 h8'
  constructor
  · rw [h6]; exact Nat.pow_pos (by omega)
  · rw [h7]; exact Nat.pow_pos (by omega)
  · exact h9
  · rw [h6, h7]; exact Nat.mod_eq_zero_of_dvd (Nat.pow_dvd_pow 2 hkl)
  · exact h5
  · exact h8
  · simp only [Config.addrBytes] at h10; omega
  · exact h12
  · exact h13

/-- Every device of well-formed parameters has a well-formed geometry. -/
theorem paramsWf_geometry {p : Params} {d : Descriptor} (hp : paramsWf p = true) (hd : d ∈ p.registry) :
    Geometry p.maxWriteFrame d := by
  simp only [paramsWf, Bool.and_eq_true, List.all_eq_true] at hp
  exact descriptorWf_geometry (hp.1.1.1.1.2 d hd)

theorem paramsWf_bounds {p : Params} (hp : paramsWf p = true) : 1 ≤ p.maxRead ∧ 5 ≤ p.maxWriteFrame := by
  simp only [paramsWf, Bool.and_eq_true, decide_eq_true_eq] at hp
  exact ⟨hp.1.2, hp.2⟩

end Sys2Proof.Machine
end

