-- ==== Sys2Proof/Laws/Resume.lean ====
section
/-! SUPPORT. What the session never touches when it takes the result of an exchange, said once for every position, and
what an exchange or a frame driven directly does to the chip and the wire. -/

namespace Sys2Proof.Machine

/-- `t` differs from `s` only in `seq`, the position, the status registers, the working registers and the response. -/
structure SameLink (s t : State) : Prop where
  params : t.params = s.params
  handle : t.handle = s.handle
  desc : t.desc = s.desc
  clockHz : t.clockHz = s.clockHz
  timeoutPolls : t.timeoutPolls = s.timeoutPolls
  req : t.req = s.req
  chip : t.chip = s.chip
  port : t.port = s.port
  inbox : t.inbox = s.inbox
  delivered : t.delivered = s.delivered
  wire : t.wire = s.wire
  probeReply : t.probeReply = s.probeReply
  oracle : t.oracle = s.oracle
  draws : t.draws = s.draws

theorem SameLink.rfl' (s : State) : SameLink s s := by constructor <;> rfl

theorem SameLink.trans' {a b c : State} (h : SameLink a b) (h' : SameLink b c) : SameLink a c := by
  constructor
  · exact h'.params.trans h.params
  · exact h'.handle.trans h.handle
  · exact h'.desc.trans h.desc
  · exact h'.clockHz.trans h.clockHz
  · exact h'.timeoutPolls.trans h.timeoutPolls
  · exact h'.req.trans h.req
  · exact h'.chip.trans h.chip
  · exact h'.port.trans h.port
  · exact h'.inbox.trans h.inbox
  · exact h'.delivered.trans h.delivered
  · exact h'.wire.trans h.wire
  · exact h'.probeReply.trans h.probeReply
  · exact h'.oracle.trans h.oracle
  · exact h'.draws.trans h.draws

theorem respond_sameLink (r : Response) (s : State) : SameLink s (respond r s) := by constructor <;> rfl
theorem succeed_sameLink (v : Value) (s : State) : SameLink s (succeed v s) := by constructor <;> rfl
theorem raiseError_sameLink (e : ErrorRecord) (s : State) : SameLink s (raiseError e s) := by constructor <;> rfl
theorem recordStatus_sameLink (d : Descriptor) (b : Byte) (s : State) : SameLink s (recordStatus d b s) := by
  constructor <;> rfl

theorem identified_sameLink (code : List Byte) (s : State) : SameLink s (identified code s) := by
  unfold identified
  split <;> constructor <;> rfl

theorem beginJob_sameLink (d : Descriptor) (j : Job) (b : Byte) (s : State) : SameLink s (beginJob d j b s) := by
  unfold beginJob
  split <;> split <;> constructor <;> rfl

theorem advanceJob_sameLink (d : Descriptor) (j : Job) (b : Byte) (s : State) : SameLink s (advanceJob d j b s) := by
  unfold advanceJob
  split
  · split <;> constructor <;> rfl
  · constructor <;> rfl
  · simp only; split <;> constructor <;> rfl
  · simp only; split <;> constructor <;> rfl

theorem pollTurn_sameLink {j : Job} {b : Byte} {ready : State → State} (h : ∀ s, SameLink s (ready s)) (s : State) :
    SameLink s (pollTurn j b ready s) := by
  unfold pollTurn
  simp only
  split
  · split <;> constructor <;> rfl
  · refine SameLink.trans' ?_ (h _)
    constructor <;> rfl

theorem statusRead_sameLink (d : Descriptor) (b : Byte) (s : State) : SameLink s (statusRead d b s) := by
  unfold statusRead
  split
  case h_1 => exact (recordStatus_sameLink d b s).trans' (pollTurn_sameLink (beginJob_sameLink d _ b) _)
  case h_2 => exact (recordStatus_sameLink d b s).trans' (pollTurn_sameLink (advanceJob_sameLink d _ b) _)
  all_goals exact recordStatus_sameLink d b s

theorem enabled_sameLink (s : State) : SameLink s (enabled s) := by
  unfold enabled
  split <;> constructor <;> rfl

theorem mutationSent_sameLink (s : State) : SameLink s (mutationSent s) := by
  unfold mutationSent
  split <;> constructor <;> rfl

theorem gathered_sameLink (r : List Byte) (s : State) : SameLink s (gathered r s) := by
  unfold gathered
  split
  · simp only; split <;> constructor <;> rfl
  all_goals constructor <;> rfl

/-- The session, taking the result of an exchange, touches neither the link, the chip, the wire nor the caller. -/
theorem resume_sameLink (cmd : Command) (r : List Byte) (s : State) : SameLink s (resume cmd r s) := by
  unfold resume
  split
  · split
    · exact identified_sameLink _ _
    · exact SameLink.rfl' s
  · split
    · exact statusRead_sameLink _ _ _
    · exact SameLink.rfl' s
  · exact enabled_sameLink s
  · exact SameLink.rfl' s
  · exact mutationSent_sameLink s
  · exact mutationSent_sameLink s
  · exact mutationSent_sameLink s
  · exact mutationSent_sameLink s
  · exact gathered_sameLink r s

/-- Nor does the error exit of a failed exchange. -/
theorem abandon_sameLink (s : State) : SameLink s (abandon s) := by
  unfold abandon
  split <;> constructor <;> rfl

/-! ### What a command leaves of the chip and the wire -/

/-- A command driven to the chip directly. -/
theorem sendCommand_direct {cmd : Command} {s : State} (h : s.handle = .none) : sendCommand cmd s = probe cmd s := by
  simp [sendCommand, h]

/-- A command the block sends whose exchange succeeds. -/
theorem sendCommand_answered {cmd : Command} {s : State} (h : s.handle = .open) (hx : (nextChoice s).xferFails = false) :
    sendCommand cmd s = resume cmd (exchangeReply (nextChoice s) cmd s) (exchanged cmd s) := by
  simp [sendCommand, h, exchangeResult, hx]

/-- A command the block sends whose exchange fails. -/
theorem sendCommand_failed {cmd : Command} {s : State} (h : s.handle = .open) (hx : (nextChoice s).xferFails = true) :
    sendCommand cmd s = abandon (exchanged cmd s) := by
  simp [sendCommand, h, exchangeResult, hx]

theorem sendCommand_wire_answered {cmd : Command} {s : State} (h : s.handle = .open)
    (hx : (nextChoice s).xferFails = false) :
    (sendCommand cmd s).wire
      = .xfer cmd (encodeFrame (opcodesOf s) cmd) (responseLength cmd) (some (exchangeReply (nextChoice s) cmd s))
          :: s.wire := by
  rw [sendCommand_answered h hx, (resume_sameLink _ _ _).wire, exchanged_wire]
  simp [exchangeResult, hx]

theorem sendCommand_wire_failed {cmd : Command} {s : State} (h : s.handle = .open)
    (hx : (nextChoice s).xferFails = true) :
    (sendCommand cmd s).wire = .xfer cmd (encodeFrame (opcodesOf s) cmd) (responseLength cmd) none :: s.wire := by
  rw [sendCommand_failed h hx, (abandon_sameLink _).wire, exchanged_wire]
  simp [exchangeResult, hx]

theorem sendCommand_chip_open {cmd : Command} {s : State} (h : s.handle = .open) :
    (sendCommand cmd s).chip = exchangeChip (nextChoice s) cmd s := by
  cases hx : (nextChoice s).xferFails
  · rw [sendCommand_answered h hx, (resume_sameLink _ _ _).chip]; rfl
  · rw [sendCommand_failed h hx, (abandon_sameLink _).chip]; rfl

/-- The chip after any command that reaches it. -/
theorem sendCommand_chip {cmd : Command} {s : State} {g : Descriptor} (h : reachesChip g s) :
    (sendCommand cmd s).chip = chipCommand (nextChoice s) g cmd (chipSettle (nextChoice s) s.chip) := by
  obtain ⟨hg, h⟩ := h
  cases hh : s.handle with
  | none =>
    rw [sendCommand_direct hh]
    simp [probe, chipReceives, hg]
  | _ =>
    rcases h with h | ⟨hd, hx⟩
    · rw [hh] at h; cases h
    · rw [sendCommand_chip_open hh, exchangeChip_of_geom hd hg hx]

theorem reachesIdle_reachesChip {g : Descriptor} {s : State} (h : reachesIdle g s) : reachesChip g s := ⟨h.1, h.2.2⟩

theorem linkedTo_reachesChip {d : Descriptor} {s : State} (h : linkedTo d s) : reachesChip d s :=
  ⟨h.2.2.1, .inr ⟨h.2.1, h.2.2.2⟩⟩

/-- On the device it is attached to, the block's successful exchange puts the frame and the chip's answer on the wire. -/
theorem sendCommand_wire {cmd : Command} {s : State} {g : Descriptor} (h : reachesChip g s) (hh : s.handle = .open) :
    (sendCommand cmd s).wire
      = .xfer cmd (encodeFrame g.ops cmd) (responseLength cmd)
          (some ((List.range (responseLength cmd)).map (replyByte (nextChoice s) g cmd (chipSettle (nextChoice s) s.chip))))
        :: s.wire := by
  obtain ⟨hg, h | ⟨hd, hx⟩⟩ := h
  · rw [hh] at h; cases h
  · rw [sendCommand_wire_answered hh hx, exchangeReply_of_geom hd hg]
    simp [opcodesOf, hd]

end Sys2Proof.Machine
end

