-- ==== Sys2Proof/Laws/Step.lean ====
section
/-! SUPPORT. Everything a step can do, said once: the inversion of `step`, of a request's acceptance, and of a command
of the operation in flight. Invariants are derived from these by cases. -/

namespace Sys2Proof.Machine

/-- The command the operation in flight sends in this step, if it sends one. -/
def commandInFlight (s : State) : Option Command :=
  match s.phase, s.desc with
  | .identify, _ => some .rdid
  | .waitIdle _, some _ | .waitDone _, some _ => some .rdsr
  | .writeEnable _, some _ => some .wren
  | .mutate j, some d => some (jobFrame d j s)
  | .readData, some _ => some (readFrame s)
  | _, _ => none

/-- What presenting a request to state `u` can lead to: `a` is the state that has accepted it. -/
inductive RequestLeads (i : Instr) (u : State) : State → Prop where
  | held (h : accepting u = false) : RequestLeads i u (hold (portRecord i u) u)
  | wrongState (h : accepting u = true) : RequestLeads i u (refuseRequest .wrongState u)
  | attach (hi : ∃ vid pid ifidx, i = .attach vid pid ifidx) (h : accepting u = true) (hq : u.seq = .unattached) :
      RequestLeads i u { accept (portRecord i u) u with seq := .identifying, phase := .openLink }
  | releaseReady (hi : i = .release) (h : accepting u = true) (hq : u.seq = .ready) :
      RequestLeads i u
        (succeed .empty { recordWire .close (accept (portRecord i u) u) with handle := .none, seq := .released })
  | releaseUnattached (hi : i = .release) (h : accepting u = true) (hq : u.seq = .unattached) :
      RequestLeads i u (succeed .empty { accept (portRecord i u) u with seq := .released })
  | setTimeout (v : BitVec 32) (hi : i = .setTimeout v) (h : accepting u = true)
      (hq : u.seq = .unattached ∨ u.seq = .ready) :
      RequestLeads i u
        (succeed .empty
          { accept (portRecord i u) u with timeoutPolls := if v = 0 then none else some v.toNat })
  | succeeds (v : Value) (h : accepting u = true) (hq : u.seq = .ready) :
      RequestLeads i u (succeed v (accept (portRecord i u) u))
  | rangeError (why : RangeReason) (h : accepting u = true) (hq : u.seq = .ready) :
      RequestLeads i u (raiseError (.rangeError why) (accept (portRecord i u) u))
  | unsupported (h : accepting u = true) (hq : u.seq = .ready) :
      RequestLeads i u (raiseError (.unsupportedOperation .lock) (accept (portRecord i u) u))
  | status (d : Descriptor) (hi : i = .status) (hd : u.desc = some d) (h : accepting u = true) (hq : u.seq = .ready) :
      RequestLeads i u (statusExchange d (accept (portRecord i u) u))
  | job (d : Descriptor) (j : Job)
      (hi : i = .unlock ∨ (∃ o n b e, i = .erase o n b e) ∨ ∃ o data, i = .write o data) (hd : u.desc = some d) (h : accepting u = true) (hq : u.seq = .ready)
      (hj : jobAdmitted d j (latched (portRecord i u))) :
      RequestLeads i u (enterJob (jobSeq j) j (accept (portRecord i u) u))
  | read (d : Descriptor) (o n : BitVec 32) (hi : i = .read o n) (hd : u.desc = some d) (h : accepting u = true)
      (hq : u.seq = .ready) (hr : o.toNat + n.toNat ≤ d.size) (hn : n.toNat ≠ 0) :
      RequestLeads i u
        { accept (portRecord i u) u with seq := .reading, phase := .readData, acc := [], addr := o.toNat }

theorem effectiveRange_eq_of_zero {S o : Nat} {b : Bool} : effectiveRange S o 0 b = (o, o) := by
  simp [effectiveRange]

theorem beginErase_leads {o n : BitVec 32} {bulk be : Bool} {d : Descriptor} {u : State} (hd : u.desc = some d)
    (h : accepting u = true) (hq : u.seq = .ready) :
    RequestLeads (.erase o n bulk be) u
      (beginErase o.toNat n.toNat bulk be d (accept (portRecord (.erase o n bulk be) u) u)) := by
  unfold beginErase
  split
  · next hr =>
    split
    · next ha =>
      split
      · exact .succeeds _ h hq
      · next hne =>
        have hn : n.toNat ≠ 0 := by
          intro hz
          rw [hz] at hne
          simp [effectiveRange] at hne
        split
        · next hb =>
          refine .job d .eraseBulk (.inr (.inl ⟨o, n, bulk, be, rfl⟩)) hd h hq ?_
          simp only [useBulk, Bool.and_eq_true, decide_eq_true_eq] at hb
          exact ⟨hb.1.1.2, hb.1.1.1, hb.1.2, hb.2, hn⟩
        · refine .job d .eraseSectors (.inr (.inl ⟨o, n, bulk, be, rfl⟩)) hd h hq ⟨by simpa [inRange, latched, portRecord, recordOn] using hr,
            by simpa [latched, portRecord, recordOn] using hn, ?_⟩
          simpa [sectorAligned, latched, portRecord, recordOn] using ha
    · exact .rangeError _ h hq
  · exact .rangeError _ h hq

theorem beginRead_leads {o n : BitVec 32} {d : Descriptor} {u : State} (hd : u.desc = some d)
    (h : accepting u = true) (hq : u.seq = .ready) :
    RequestLeads (.read o n) u (beginRead o.toNat n.toNat d (accept (portRecord (.read o n) u) u)) := by
  unfold beginRead
  split
  · next hr =>
    split
    · exact .succeeds _ h hq
    · next hn => exact .read d o n rfl hd h hq (by simpa [inRange] using hr) hn
  · exact .rangeError _ h hq

theorem beginWrite_leads {o : BitVec 32} {data : List Byte} {d : Descriptor} {u : State} (hd : u.desc = some d)
    (h : accepting u = true) (hq : u.seq = .ready) :
    RequestLeads (.write o data) u (beginWrite o.toNat data.length d (accept (portRecord (.write o data) u) u)) := by
  unfold beginWrite
  split
  · next hr =>
    split
    · exact .succeeds _ h hq
    · next hn =>
      refine .job d .write (.inr (.inr ⟨o, data, rfl⟩)) hd h hq ⟨by simpa [inRange, latched, portRecord, recordOn] using hr, fun he => hn ?_⟩
      have he : data = [] := he
      simp [he]
  · exact .rangeError _ h hq

/-- A session request whose effect is a function of the descriptor. -/
theorem present_session_leads {i : Instr} {u t : State} {f : Descriptor → State → State}
    (h : present (portRecord i u) admitsSession (withDesc f) u = .next t)
    (hf : ∀ d, u.desc = some d → accepting u = true → u.seq = .ready →
      RequestLeads i u (f d (accept (portRecord i u) u))) : RequestLeads i u t := by
  rcases present_cases h with ⟨ha, he⟩ | ⟨ha, -, he⟩ | ⟨ha, hq, he⟩
  · injection he with he; subst he; exact .held ha
  · injection he with he; subst he; exact .wrongState ha
  · obtain ⟨d, hd, rfl⟩ := withDesc_next he
    exact hf d hd ha (admitsSession_iff.1 hq)

/-- Everything a request can lead to. -/
theorem exec_request_leads {i : Instr} {u t : State} (hi : acceptedIn i ≠ none) (h : exec i u = .next t) :
    RequestLeads i u t := by
  cases i with
  | attach vid pid ifidx =>
    simp only [exec, execAttach] at h
    rcases present_cases h with ⟨ha, he⟩ | ⟨ha, -, he⟩ | ⟨ha, hq, he⟩ <;> injection he with he <;> subst he
    · exact .held ha
    · exact .wrongState ha
    · exact .attach ⟨vid, pid, ifidx, rfl⟩ ha (admitsAttach_iff.1 hq)
  | release =>
    simp only [exec, execRelease] at h
    rcases present_cases h with ⟨ha, he⟩ | ⟨ha, -, he⟩ | ⟨ha, hq, he⟩ <;> injection he with he <;> subst he
    · exact .held ha
    · exact .wrongState ha
    · rcases admitsControl_iff.1 hq with hq | hq
      · rw [if_neg (by simp [hq])]; exact .releaseUnattached rfl ha hq
      · rw [if_pos (by simp [hq])]; exact .releaseReady rfl ha hq
  | size => exact present_session_leads h fun d _ ha hq => .succeeds _ ha hq
  | name => exact present_session_leads h fun d _ ha hq => .succeeds _ ha hq
  | frequency =>
    simp only [exec, execFrequency] at h
    rcases present_cases h with ⟨ha, he⟩ | ⟨ha, -, he⟩ | ⟨ha, hq, he⟩ <;> injection he with he <;> subst he
    · exact .held ha
    · exact .wrongState ha
    · exact .succeeds _ ha (admitsSession_iff.1 hq)
  | flags => exact present_session_leads h fun d _ ha hq => .succeeds _ ha hq
  | status => exact present_session_leads h fun d hd ha hq => .status d rfl hd ha hq
  | setTimeout v =>
    simp only [exec, execSetTimeout] at h
    rcases present_cases h with ⟨ha, he⟩ | ⟨ha, -, he⟩ | ⟨ha, hq, he⟩ <;> injection he with he <;> subst he
    · exact .held ha
    · exact .wrongState ha
    · exact .setTimeout v rfl ha (admitsControl_iff.1 hq)
  | unlock =>
    refine present_session_leads h fun d hd ha hq => ?_
    split
    · next hl => exact .job d .unlock (.inl rfl) hd ha hq hl
    · exact .unsupported ha hq
  | erase o n b e => exact present_session_leads h fun d hd ha hq => beginErase_leads hd ha hq
  | read o n => exact present_session_leads h fun d hd ha hq => beginRead_leads hd ha hq
  | write o data => exact present_session_leads h fun d hd ha hq => beginWrite_leads hd ha hq
  | rdid => exact absurd rfl hi
  | rdsr => exact absurd rfl hi
  | wren => exact absurd rfl hi
  | wrdi => exact absurd rfl hi
  | wrsr v => exact absurd rfl hi
  | se a => exact absurd rfl hi
  | be => exact absurd rfl hi
  | pp a d => exact absurd rfl hi
  | readData a k => exact absurd rfl hi

/-! ### The step -/

/-- Everything a step can do. -/
inductive StepLeads (s : State) : State → Prop where
  | deliver (hp : s.phase = .idle) (hr : s.responsePending = true) : StepLeads s (deliver s)
  | request (r : Request) (rest : List Input) (i : Instr) (t : State) (hp : s.phase = .idle)
      (hr : s.responsePending = false) (hb : s.inbox = .request r :: rest) (hd : decodeRequest r = .ok i)
      (hl : RequestLeads i (putOnPort r (popInbox s)) t) : StepLeads s t
  | reserved (r : Request) (rest : List Input) (hp : s.phase = .idle) (hr : s.responsePending = false)
      (hb : s.inbox = .request r :: rest) (hw : r.data.length < 2 ^ 32)
      (ha : accepting (popInbox s) = true) : StepLeads s (refuseRequest .reservedOp (putOnPort r (popInbox s)))
  | reservedHeld (r : Request) (rest : List Input) (hp : s.phase = .idle) (hr : s.responsePending = false)
      (hb : s.inbox = .request r :: rest) (hw : r.data.length < 2 ^ 32)
      (ha : accepting (popInbox s) = false) : StepLeads s (hold r (putOnPort r (popInbox s)))
  | newBlock (rest : List Input) (hp : s.phase = .idle) (hr : s.responsePending = false)
      (hb : s.inbox = .newBlock :: rest) : StepLeads s (newBlock (popInbox s))
  | probe (w : List Byte) (n : Nat) (rest : List Input) (cmd : Command) (hp : s.phase = .idle)
      (hr : s.responsePending = false) (hb : s.inbox = .frame w n :: rest) (hh : s.handle = .none)
      (hd : decodeFrame (chipOpcodes s) w n = .ok cmd) : StepLeads s (probe cmd (popInbox s))
  | probeUnknown (w : List Byte) (n : Nat) (rest : List Input) (hp : s.phase = .idle)
      (hr : s.responsePending = false) (hb : s.inbox = .frame w n :: rest) (hh : s.handle = .none) :
      StepLeads s (probeUnknown n (popInbox s))
  | chipIdles (hp : s.phase = .idle) (hr : s.responsePending = false) (hb : s.inbox = []) : StepLeads s (chipIdles s)
  | openLink (hp : s.phase = .openLink) : StepLeads s (openLink s)
  | setIdentClock (hp : s.phase = .identClock) : StepLeads s (setIdentClock s)
  | finishAttach (d : Descriptor) (hp : s.phase = .deviceClock d) : StepLeads s (finishAttach d s)
  | closeFailed (e : ErrorRecord) (hp : s.phase = .closeLink e) : StepLeads s (closeFailed e s)
  | command (cmd : Command) (hc : commandInFlight s = some cmd) : StepLeads s (sendCommand cmd s)

/-- What a decoded record is: within its bounds, and by its op code. -/
theorem decodeRequest_ok {r : Request} {i : Instr} :
    decodeRequest r = .ok i ↔ r.data.length < 2 ^ 32 ∧ decodeOp r = .ok i := by
  unfold decodeRequest requestFits
  split <;> simp_all

theorem decodeRequest_reserved {r : Request} {op : BitVec 4} (h : decodeRequest r = .error (.reservedOp op)) :
    r.data.length < 2 ^ 32 := by
  unfold decodeRequest requestFits at h
  split at h
  · next hw => exact of_decide_eq_true hw
  · cases h

theorem decodeRequest_isRequest {r : Request} {i : Instr} (h : decodeRequest r = .ok i) : acceptedIn i ≠ none := by
  have h := (decodeRequest_ok.1 h).2
  unfold decodeOp at h
  split at h <;> first | (injection h with h; subst h; simp [acceptedIn]) | cases h

/-- The record a request was decoded from is the record it is presented with. -/
theorem recordOn_of_decode {r : Request} {i : Instr} (h : decodeRequest r = .ok i) : recordOn r i = r := by
  have h := (decodeRequest_ok.1 h).2
  obtain ⟨op, _⟩ := r
  unfold decodeOp at h
  split at h <;> first
    | next hop =>
      injection h with h
      subst h
      simp only [recordOn, Request.mk.injEq, and_true]
      exact BitVec.eq_of_toNat_eq hop.symm
    | cases h

/-- The fields request `i` is presented with are its own. -/
theorem decodeRequest_recordOn {p : Request} {i : Instr} (hi : acceptedIn i ≠ none)
    (h : (recordOn p i).data.length < 2 ^ 32) : decodeRequest (recordOn p i) = .ok i := by
  rw [decodeRequest_ok]
  refine ⟨h, ?_⟩
  cases i <;> first | rfl | exact absurd rfl hi

theorem portRecord_of_decode {r : Request} {i : Instr} (h : decodeRequest r = .ok i) (s : State) :
    portRecord i (putOnPort r s) = r := recordOn_of_decode h

theorem chipOpcodes_popInbox (s : State) : chipOpcodes (popInbox s) = chipOpcodes s := rfl

/-- A step that answers a next state answers one of these. -/
theorem step_leads {s t : State} (h : step s = .next t) : StepLeads s t := by
  unfold step sequencer at h
  split at h
  · next hp =>
    unfold idleStep at h
    split at h
    · next hr => injection h with h; subst h; exact .deliver hp hr
    · next hr =>
      have hr : s.responsePending = false := by simpa using hr
      split at h
      · next r rest hb =>
        unfold takeRequest decode at h
        split at h
        · next i hd => exact .request r rest i t hp hr hb hd (exec_request_leads (decodeRequest_isRequest hd) h)
        · next hd =>
          have hw := decodeRequest_reserved hd
          split at h
          · next ha => injection h with h; subst h; exact .reserved r rest hp hr hb hw ha
          · next ha => injection h with h; subst h; exact .reservedHeld r rest hp hr hb hw (by simpa using ha)
        · cases h
      · next rest hb => injection h with h; subst h; exact .newBlock rest hp hr hb
      · next w n rest hb =>
        unfold takeFrame at h
        split at h
        · cases h
        · next hh =>
          have hh : s.handle = .none := hh
          simp only [decode] at h
          split at h
          · next i hd =>
            cases hc : decodeFrame (chipOpcodes (popInbox s)) w n with
            | error e => rw [hc] at hd; cases hd
            | ok cmd =>
              rw [hc] at hd
              injection hd with hd
              subst hd
              rw [exec_commandInstr] at h
              injection h with h
              subst h
              have : sendCommand cmd (popInbox s) = probe cmd (popInbox s) := by simp [sendCommand, hh]
              rw [this]
              exact .probe w n rest cmd hp hr hb hh hc
          · injection h with h; subst h; exact .probeUnknown w n rest hp hr hb hh
      · next hb => injection h with h; subst h; exact .chipIdles hp hr hb
  · next hp => injection h with h; subst h; exact .openLink hp
  · next hp => injection h with h; subst h; exact .setIdentClock hp
  · next hp =>
    injection h with h; subst h
    exact .command .rdid (by simp [commandInFlight, hp])
  · next d hp => injection h with h; subst h; exact .finishAttach d hp
  · next e hp => injection h with h; subst h; exact .closeFailed e hp
  · next j hp =>
    split at h
    · next d hd => injection h with h; subst h; exact .command .rdsr (by simp [commandInFlight, hp, hd])
    · cases h
  · next j hp =>
    split at h
    · next d hd => injection h with h; subst h; exact .command .wren (by simp [commandInFlight, hp, hd])
    · cases h
  · next j hp =>
    split at h
    · next d hd =>
      rw [exec_commandInstr] at h
      injection h with h; subst h
      exact .command _ (by simp [commandInFlight, hp, hd])
    · cases h
  · next j hp =>
    split at h
    · next d hd => injection h with h; subst h; exact .command .rdsr (by simp [commandInFlight, hp, hd])
    · cases h
  · next hp =>
    split at h
    · next d hd =>
      rw [exec_commandInstr] at h
      injection h with h; subst h
      exact .command _ (by simp [commandInFlight, hp, hd])
    · cases h

/-- A step sends the command in flight. -/
theorem step_command {s : State} {cmd : Command} (h : commandInFlight s = some cmd) :
    step s = .next (sendCommand cmd s) := by
  unfold commandInFlight at h
  unfold step sequencer
  split at h
  · next hp => cases h; rw [hp]; rfl
  · next hp hd => cases h; rw [hp, hd]; rfl
  · next hp hd => cases h; rw [hp, hd]; rfl
  · next hp hd => cases h; rw [hp, hd]; rfl
  · next hp hd => cases h; rw [hp, hd]; exact exec_commandInstr _ _
  · next hp hd => cases h; rw [hp, hd]; exact exec_commandInstr _ _
  · cases h

/-! ### The step with no operation in flight -/

theorem step_of_idle {s : State} (hp : s.phase = .idle) : step s = idleStep s := by
  unfold step sequencer
  rw [hp]

theorem popInbox_cons {s : State} {x : Input} {rest : List Input} (hb : s.inbox = x :: rest) :
    popInbox s = { s with inbox := rest } := by
  simp [popInbox, hb]

/-- A pending response is delivered first. -/
theorem step_deliver {s : State} (hp : s.phase = .idle) (hr : s.responsePending = true) : step s = .next (deliver s) := by
  rw [step_of_idle hp, idleStep, if_pos hr]

/-- The request on the port is taken. -/
theorem step_request {s : State} {r : Request} {rest : List Input} (hp : s.phase = .idle)
    (hr : s.responsePending = false) (hb : s.inbox = .request r :: rest) :
    step s = takeRequest r { s with inbox := rest } := by
  rw [step_of_idle hp, idleStep, if_neg (by simp [hr]), ← popInbox_cons hb]
  simp only [hb]

/-- The request on the port is run as the instruction it decodes to. -/
theorem step_decoded {s : State} {r : Request} {rest : List Input} {i : Instr} (hp : s.phase = .idle)
    (hr : s.responsePending = false) (hb : s.inbox = .request r :: rest) (hd : decodeRequest r = .ok i) :
    step s = exec i { s with inbox := rest, port := r } := by
  rw [step_request hp hr hb]
  simp only [takeRequest, decode, hd, putOnPort]

/-- A new block is created. -/
theorem step_newBlock {s : State} {rest : List Input} (hp : s.phase = .idle) (hr : s.responsePending = false)
    (hb : s.inbox = .newBlock :: rest) : step s = .next (newBlock { s with inbox := rest }) := by
  rw [step_of_idle hp, idleStep, if_neg (by simp [hr]), ← popInbox_cons hb]
  simp only [hb]

/-- A frame from outside is taken. -/
theorem step_frame {s : State} {w : List Byte} {n : Nat} {rest : List Input} (hp : s.phase = .idle)
    (hr : s.responsePending = false) (hb : s.inbox = .frame w n :: rest) :
    step s = takeFrame w n { s with inbox := rest } := by
  rw [step_of_idle hp, idleStep, if_neg (by simp [hr]), ← popInbox_cons hb]
  simp only [hb]

/-- With nothing to take the chip takes a step of its own. -/
theorem step_chipIdles {s : State} (hp : s.phase = .idle) (hr : s.responsePending = false) (hb : s.inbox = []) :
    step s = .next (chipIdles s) := by
  rw [step_of_idle hp, idleStep, if_neg (by simp [hr])]
  simp only [hb]

/-! ### A command of the operation in flight -/

/-- Everything a command of the operation in flight can lead to, when the block holds the link. -/
inductive CommandLeads (s : State) : State → Prop where
  | found (d : Descriptor) (code : List Byte) (hp : s.phase = .identify) (hr : resolve s.params.registry code = some d) :
      CommandLeads s { exchanged .rdid s with phase := .deviceClock d }
  | unknown (code : List Byte) (hp : s.phase = .identify) :
      CommandLeads s { exchanged .rdid s with phase := .closeLink (.unknownDevice code) }
  | lost (hp : s.phase = .identify) :
      CommandLeads s { exchanged .rdid s with phase := .closeLink (.transportError .exchange none) }
  | failed (j : Job) (cmd : Command) (hc : commandInFlight s = some cmd)
      (hp : s.phase = .waitIdle j ∨ s.phase = .writeEnable j ∨ s.phase = .waitDone j)
      (hx : (nextChoice s).xferFails = true) :
      CommandLeads s (raiseError (.transportError .exchange (committed j s)) (exchanged cmd s))
  | failedMutation (j : Job) (d : Descriptor) (hd : s.desc = some d) (hp : s.phase = .mutate j)
      (hx : (nextChoice s).xferFails = true) :
      CommandLeads s
        (raiseError (.transportError .exchange (committed j s)) { exchanged (jobFrame d j s) s with mutated := true })
  | failedRead (d : Descriptor) (hd : s.desc = some d) (hp : s.phase = .readData) (hx : (nextChoice s).xferFails = true) :
      CommandLeads s (raiseError (.transportError .exchange none) (exchanged (readFrame s) s))
  | polls (j : Job) (d : Descriptor) (r : List Byte) (hd : s.desc = some d)
      (hp : s.phase = .waitIdle j ∨ s.phase = .waitDone j) (hr : exchangeResult (nextChoice s) .rdsr s = some r)
      (hb : statusBusy (r.headD 0) = true) (hn : budgetSpent s.timeoutPolls (s.polls + 1) = false) :
      CommandLeads s
        { recordStatus d (r.headD 0) (exchanged .rdsr s) with cur := r.headD 0, polls := s.polls + 1 }
  | timeout (j : Job) (d : Descriptor) (r : List Byte) (hd : s.desc = some d)
      (hp : s.phase = .waitIdle j ∨ s.phase = .waitDone j) (hr : exchangeResult (nextChoice s) .rdsr s = some r)
      (hb : statusBusy (r.headD 0) = true) (hn : budgetSpent s.timeoutPolls (s.polls + 1) = true) :
      CommandLeads s
        (raiseError (.timeout (r.headD 0) (committed j s))
          { recordStatus d (r.headD 0) (exchanged .rdsr s) with cur := r.headD 0, polls := s.polls + 1 })
  | begins (j : Job) (d : Descriptor) (r : List Byte) (hd : s.desc = some d) (hp : s.phase = .waitIdle j)
      (hr : exchangeResult (nextChoice s) .rdsr s = some r) (hb : statusBusy (r.headD 0) = false) :
      CommandLeads s
        (beginJob d j (r.headD 0) { recordStatus d (r.headD 0) (exchanged .rdsr s) with cur := r.headD 0 })
  | advances (j : Job) (d : Descriptor) (r : List Byte) (hd : s.desc = some d) (hp : s.phase = .waitDone j)
      (hr : exchangeResult (nextChoice s) .rdsr s = some r) (hb : statusBusy (r.headD 0) = false) :
      CommandLeads s
        (advanceJob d j (r.headD 0) { recordStatus d (r.headD 0) (exchanged .rdsr s) with cur := r.headD 0 })
  | enables (j : Job) (r : List Byte) (hp : s.phase = .writeEnable j)
      (hr : exchangeResult (nextChoice s) .wren s = some r) :
      CommandLeads s { exchanged .wren s with phase := .mutate j }
  | mutates (j : Job) (d : Descriptor) (hd : s.desc = some d) (hp : s.phase = .mutate j)
      (hx : (nextChoice s).xferFails = false) :
      CommandLeads s { exchanged (jobFrame d j s) s with mutated := true, polls := 0, phase := .waitDone j }
  | gathers (d : Descriptor) (r : List Byte) (hd : s.desc = some d) (hp : s.phase = .readData)
      (hl : r.length = batchLength s.params.maxRead s.req.length.toNat s.acc.length) :
      CommandLeads s (gathered r (exchanged (readFrame s) s))

/-- What the session does with the status byte `r.headD 0` in a WaitReady. -/
theorem pollTurn_cases {j : Job} {b : Byte} {ready : State → State} (s : State) :
    (statusBusy b = true ∧ budgetSpent s.timeoutPolls (s.polls + 1) = false
        ∧ pollTurn j b ready s = { s with cur := b, polls := s.polls + 1 })
      ∨ (statusBusy b = true ∧ budgetSpent s.timeoutPolls (s.polls + 1) = true
        ∧ pollTurn j b ready s
          = raiseError (.timeout b (committed j s)) { s with cur := b, polls := s.polls + 1 })
      ∨ (statusBusy b = false ∧ pollTurn j b ready s = ready { s with cur := b }) := by
  unfold pollTurn
  cases statusBusy b <;> cases hb : budgetSpent s.timeoutPolls (s.polls + 1) <;> simp [hb]

theorem command_leads {s : State} {cmd : Command} (hh : s.handle = .open) (hc : commandInFlight s = some cmd) :
    CommandLeads s (sendCommand cmd s) := by
  have hc' := hc
  unfold commandInFlight at hc
  have e (c : Command) : (exchanged c s).phase = s.phase := rfl
  have ed (c : Command) : (exchanged c s).desc = s.desc := rfl
  have ep (c : Command) : (exchanged c s).params = s.params := rfl
  cases hx : (nextChoice s).xferFails
  · rw [sendCommand_answered hh hx]
    have hres (c : Command) : exchangeResult (nextChoice s) c s = some (exchangeReply (nextChoice s) c s) :=
      exchangeResult_some.2 ⟨hx, rfl⟩
    split at hc
    · next hp =>
      cases hc
      simp only [resume, e, hp, if_true, identified, ep]
      split
      · next d hr => exact .found d _ hp hr
      · exact .unknown _ hp
    · next j d hp hd =>
      cases hc
      simp only [resume, ed, hd, statusRead, e, hp]
      rcases pollTurn_cases (j := j) (b := (exchangeReply (nextChoice s) .rdsr s).headD 0)
        (ready := beginJob d j ((exchangeReply (nextChoice s) .rdsr s).headD 0))
        (recordStatus d ((exchangeReply (nextChoice s) .rdsr s).headD 0) (exchanged .rdsr s)) with
        ⟨hb, hn, he⟩ | ⟨hb, hn, he⟩ | ⟨hb, he⟩ <;> rw [he]
      · exact .polls j d _ hd (.inl hp) (hres _) hb hn
      · exact .timeout j d _ hd (.inl hp) (hres _) hb hn
      · exact .begins j d _ hd hp (hres _) hb
    · next j d hp hd =>
      cases hc
      simp only [resume, ed, hd, statusRead, e, hp]
      rcases pollTurn_cases (j := j) (b := (exchangeReply (nextChoice s) .rdsr s).headD 0)
        (ready := advanceJob d j ((exchangeReply (nextChoice s) .rdsr s).headD 0))
        (recordStatus d ((exchangeReply (nextChoice s) .rdsr s).headD 0) (exchanged .rdsr s)) with
        ⟨hb, hn, he⟩ | ⟨hb, hn, he⟩ | ⟨hb, he⟩ <;> rw [he]
      · exact .polls j d _ hd (.inr hp) (hres _) hb hn
      · exact .timeout j d _ hd (.inr hp) (hres _) hb hn
      · exact .advances j d _ hd hp (hres _) hb
    · next j d hp hd =>
      cases hc
      simp only [resume, enabled, e, hp]
      exact .enables j _ hp (hres _)
    · next j d hp hd =>
      cases hc
      have he : resume (jobFrame d j s) (exchangeReply (nextChoice s) (jobFrame d j s) s) (exchanged (jobFrame d j s) s)
          = mutationSent (exchanged (jobFrame d j s) s) := by cases j <;> rfl
      rw [he]
      simp only [mutationSent, e, hp]
      exact .mutates j d hd hp hx
    · next d hp hd =>
      cases hc
      exact .gathers d (exchangeReply (nextChoice s) (readFrame s) s) hd hp (exchangeReply_length _ _ _)
    · cases hc
  · rw [sendCommand_failed hh hx]
    split at hc
    · next hp =>
      cases hc
      simp only [abandon, e, hp]
      exact .lost hp
    · next j d hp hd =>
      cases hc
      simp only [abandon, e, hp]
      exact .failed j _ hc' (.inl hp) hx
    · next j d hp hd =>
      cases hc
      simp only [abandon, e, hp]
      exact .failed j _ hc' (.inr (.inr hp)) hx
    · next j d hp hd =>
      cases hc
      simp only [abandon, e, hp]
      exact .failed j _ hc' (.inr (.inl hp)) hx
    · next j d hp hd =>
      cases hc
      simp only [abandon, e, hp]
      exact .failedMutation j d hd hp hx
    · next d hp hd =>
      cases hc
      simp only [abandon, e, hp]
      exact .failedRead d hd hp hx
    · cases hc

/-! ### A step of WaitReady -/

/-- The state after the exchange of a status read, with its byte recorded. -/
def statusTaken (d : Descriptor) (b : Byte) (s : State) : State := recordStatus d b (exchanged .rdsr s)

theorem exchangeReply_rdsr {c : Choice} {s : State} {d : Descriptor} (hd : s.desc = some d) (hg : s.chip.geom = some d) :
    exchangeReply c .rdsr s = [statusByte c d (chipSettle c s.chip)] := by
  rw [exchangeReply_of_geom hd hg]
  rfl

/-- A step of the WaitReady before the first mutating command, the status byte answered. -/
theorem step_waitIdle {s : State} {d : Descriptor} {j : Job} (hp : s.phase = .waitIdle j) (h : linkedTo d s) :
    step s = .next
      (pollTurn j (statusByte (nextChoice s) d (chipSettle (nextChoice s) s.chip))
        (beginJob d j (statusByte (nextChoice s) d (chipSettle (nextChoice s) s.chip)))
        (statusTaken d (statusByte (nextChoice s) d (chipSettle (nextChoice s) s.chip)) s)) := by
  obtain ⟨hh, hd, hg, hx⟩ := h
  rw [step_command (cmd := .rdsr) (by simp [commandInFlight, hp, hd]), sendCommand_answered hh hx, exchangeReply_rdsr hd hg]
  have e1 : (exchanged .rdsr s).desc = some d := hd
  have e2 : (exchanged .rdsr s).phase = .waitIdle j := hp
  simp only [resume, e1, statusRead, e2]
  rfl

/-- A step of the WaitReady after a mutating frame, the status byte answered. -/
theorem step_waitDone {s : State} {d : Descriptor} {j : Job} (hp : s.phase = .waitDone j) (h : linkedTo d s) :
    step s = .next
      (pollTurn j (statusByte (nextChoice s) d (chipSettle (nextChoice s) s.chip))
        (advanceJob d j (statusByte (nextChoice s) d (chipSettle (nextChoice s) s.chip)))
        (statusTaken d (statusByte (nextChoice s) d (chipSettle (nextChoice s) s.chip)) s)) := by
  obtain ⟨hh, hd, hg, hx⟩ := h
  rw [step_command (cmd := .rdsr) (by simp [commandInFlight, hp, hd]), sendCommand_answered hh hx, exchangeReply_rdsr hd hg]
  have e1 : (exchanged .rdsr s).desc = some d := hd
  have e2 : (exchanged .rdsr s).phase = .waitDone j := hp
  simp only [resume, e1, statusRead, e2]
  rfl

theorem pollTurn_idle {j : Job} {b : Byte} {ready : State → State} {s : State} (h : statusBusy b = false) :
    pollTurn j b ready s = ready { s with cur := b } := by
  simp [pollTurn, h]

theorem pollTurn_busy {j : Job} {b : Byte} {ready : State → State} {s : State} (h : statusBusy b = true)
    (hn : budgetSpent s.timeoutPolls (s.polls + 1) = false) :
    pollTurn j b ready s = { s with cur := b, polls := s.polls + 1 } := by
  simp [pollTurn, h, hn]

theorem pollTurn_timeout {j : Job} {b : Byte} {ready : State → State} {s : State} (h : statusBusy b = true)
    (hn : budgetSpent s.timeoutPolls (s.polls + 1) = true) :
    pollTurn j b ready s
      = raiseError (.timeout b (committed j s)) { s with cur := b, polls := s.polls + 1 } := by
  simp [pollTurn, h, hn]

/-! ### Runs -/

theorem afterSteps_succ {k : Nat} {s u : State} (h : step s = .next u) : afterSteps (k + 1) s = afterSteps k u := by
  simp [afterSteps, h]

/-- One more step at the end of a run. -/
theorem afterSteps_snoc {k : Nat} {s u t : State} (h : afterSteps k s = some u) (hu : step u = .next t) :
    afterSteps (k + 1) s = some t := by
  induction k generalizing s with
  | zero =>
    cases h
    rw [afterSteps_succ hu]
    rfl
  | succ k ih =>
    cases hs : step s with
    | next v =>
      rw [afterSteps_succ hs] at h ⊢
      exact ih h
    | fault r => simp [afterSteps, hs] at h
    | refused r => simp [afterSteps, hs] at h

theorem untilIdle_idle {k : Nat} {s : State} (h : s.phase = .idle) : untilIdle k s = some s := by
  cases k <;> simp [untilIdle, h]

theorem untilIdle_succ {k : Nat} {s u : State} (hp : s.phase ≠ .idle) (h : step s = .next u) :
    untilIdle (k + 1) s = untilIdle k u := by
  simp [untilIdle, hp, h]

/-- A property every step of an operation keeps holds where the operation ends. -/
theorem untilIdle_keeps {P : State → Prop} (hP : ∀ s t, P s → s.phase ≠ .idle → step s = .next t → P t) {k : Nat}
    {s t : State} (hs : P s) (h : untilIdle k s = some t) : P t ∧ t.phase = .idle := by
  induction k generalizing s with
  | zero =>
    unfold untilIdle at h
    split at h
    · next hp => cases h; exact ⟨hs, hp⟩
    · cases h
  | succ k ih =>
    unfold untilIdle at h
    split at h
    · next hp => cases h; exact ⟨hs, hp⟩
    · next hp =>
      cases hst : step s with
      | next u =>
        rw [hst] at h
        exact ih (hP s u hs hp hst) h
      | fault r => rw [hst] at h; cases h
      | refused r => rw [hst] at h; cases h

end Sys2Proof.Machine
end

