-- ==== Sys2Proof/Laws/Session.lean ====
section
/-! SUPPORT. Consequences of the session invariant that the statements about operations in flight use. -/

namespace Sys2Proof.Machine

theorem jobSeq_attached (j : Job) : attached (jobSeq j) = true := by cases j <;> rfl

theorem seqAfterError_jobSeq (j : Job) : seqAfterError (jobSeq j) = .ready := by cases j <;> rfl

theorem seqAfterSuccess_jobSeq (j : Job) : seqAfterSuccess (jobSeq j) = .ready := by cases j <;> rfl

/-- The sequencer state of a job in flight. -/
theorem seq_of_job {s : State} {j : Job} (hq : seqAgrees s)
    (hp : s.phase = .waitIdle j ∨ s.phase = .writeEnable j ∨ s.phase = .mutate j ∨ s.phase = .waitDone j) :
    s.seq = jobSeq j := by
  unfold seqAgrees at hq
  rcases hp with hp | hp | hp | hp <;> rw [hp] at hq <;> exact hq

/-- The sequencer state of a READ in flight. -/
theorem seq_of_read {s : State} (hq : seqAgrees s) (hp : s.phase = .readData) : s.seq = .reading := by
  unfold seqAgrees at hq
  rw [hp] at hq
  exact hq

/-- The sequencer state of an ATTACH in flight. -/
theorem seq_of_attach {s : State} (hq : seqAgrees s)
    (hp : s.phase = .openLink ∨ s.phase = .identClock ∨ s.phase = .identify ∨ (∃ d, s.phase = .deviceClock d)
      ∨ ∃ e, s.phase = .closeLink e) : s.seq = .identifying := by
  unfold seqAgrees at hq
  rcases hp with hp | hp | hp | ⟨d, hp⟩ | ⟨e, hp⟩ <;> rw [hp] at hq <;> exact hq

/-- An operation in flight that sends a command holds the link. -/
theorem handle_of_command {s : State} (hi : SessionInv s) {cmd : Command} (hc : commandInFlight s = some cmd) :
    s.handle = .open := by
  obtain ⟨-, hq, hl, -⟩ := hi
  refine hl.2 ?_
  unfold commandInFlight at hc
  split at hc
  · next hp => exact .inr ⟨seq_of_attach hq (by simp [hp]), by simp [hp]⟩
  · next j _ hp _ => exact .inl (by rw [seq_of_job hq (.inl hp)]; exact jobSeq_attached j)
  · next j _ hp _ => exact .inl (by rw [seq_of_job hq (.inr (.inr (.inr hp)))]; exact jobSeq_attached j)
  · next j _ hp _ => exact .inl (by rw [seq_of_job hq (.inr (.inl hp))]; exact jobSeq_attached j)
  · next j _ hp _ => exact .inl (by rw [seq_of_job hq (.inr (.inr (.inl hp)))]; exact jobSeq_attached j)
  · next _ hp _ => exact .inl (by rw [seq_of_read hq hp]; rfl)
  · cases hc

/-- Every step of an operation in flight that sends a command, from the session invariant. -/
theorem command_leads_of_inv {s : State} (hi : SessionInv s) {cmd : Command} (hc : commandInFlight s = some cmd) :
    CommandLeads s (sendCommand cmd s) := command_leads (handle_of_command hi hc) hc

/-- The geometry of the session's device. -/
theorem desc_geometry {s : State} {d : Descriptor} (hi : SessionInv s) (hd : s.desc = some d) :
    Geometry s.params.maxWriteFrame d :=
  paramsWf_geometry hi.1 (hi.2.2.2.1.2.2.1 d hd)

/-- The session invariant reads nothing but these fields. -/
theorem sessionInv_congr {s t : State} (hi : SessionInv s) (e1 : t.params = s.params) (e2 : t.seq = s.seq)
    (e3 : t.handle = s.handle) (e4 : t.desc = s.desc) (e5 : t.clockHz = s.clockHz)
    (e6 : t.timeoutPolls = s.timeoutPolls) (e7 : t.responsePending = s.responsePending) (e8 : t.response = s.response)
    (e9 : t.phase = s.phase) (e10 : t.req = s.req) (e11 : t.addr = s.addr) (e12 : t.done = s.done)
    (e13 : t.polls = s.polls) (e14 : t.acc = s.acc) (e15 : t.port = s.port) : SessionInv t := by
  cases s
  cases t
  simp only at e1 e2 e3 e4 e5 e6 e7 e8 e9 e10 e11 e12 e13 e14 e15
  subst e1 e2 e3 e4 e5 e6 e7 e8 e9 e10 e11 e12 e13 e14 e15
  obtain ⟨i1, i2, i3, i4, i5, i6, i7, i8, i9⟩ := hi
  refine ⟨i1, i2, i3, i4, i5, i6, i7, fun d hd => ?_, i9⟩
  have := i8 d hd
  simp only at this ⊢
  split at this <;> exact this

end Sys2Proof.Machine
end

