-- ==== Sys2Proof/Tests/Slice0.lean ====
section
/-! SUPPORT. The model's own tests: ill-formed terms refused, words of the spec decoded, single steps against
95_test_vectors.md (each test names the vector its expected result comes from), and a witness for the hypotheses of each
statement. -/

namespace Sys2Proof.Tests
open Sys2Proof.Machine

/-! ### The fixtures of 95_test_vectors.md section 1 -/

/-- `FIXTURE-2M`. -/
def fixture2M : Descriptor :=
  { id := [0xA5, 0x5A, 0x15], name := [0x46, 0x49, 0x58, 0x54, 0x55, 0x52, 0x45, 0x2D, 0x32, 0x4D], size := 0x200000
    sectorSize := 0x1000, pageSize := 0x100, maxClockHz := 30000000, slowProgram := false, supportsBulk := true
    supportsLock := true, bpMask := 0x1C, ops := defaultOpcodes }

/-- `FIXTURE-1M-NB`. -/
def fixture1M : Descriptor :=
  { id := [0xA5, 0x5A, 0x14]
    name := [0x46, 0x49, 0x58, 0x54, 0x55, 0x52, 0x45, 0x2D, 0x31, 0x4D, 0x2D, 0x4E, 0x42], size := 0x100000
    sectorSize := 0x1000, pageSize := 0x100, maxClockHz := 12000000, slowProgram := true, supportsBulk := false
    supportsLock := false, bpMask := 0x0C, ops := defaultOpcodes }

/-- The parameters of the vectors. -/
def fixtureParams : Params :=
  { registry := [fixture2M, fixture1M], identClockHz := 1000000, clockCapHz := none, maxRead := 256, maxWriteFrame := 260
    pollInterval := 0 }

/-- A choice in which nothing happens: no failure, no completion, no vendor bits, an idle unlocked `FIXTURE-2M`. -/
def quiet : Choice :=
  { openFails := false, xferFails := false, completes := false, id0 := 0xA5, id1 := 0x5A, id2 := 0x15, keepsArray := true
    epoch := 0, bp := 0, wel := false, busy := false, vendor := 0, refuses := false }

/-- A choice in which the exchange fails. -/
def failing : Choice := { quiet with xferFails := true }

/-- A choice in which a busy chip completes before the frame. -/
def completing : Choice := { quiet with completes := true }

/-- The chip behind the link, idle, its array as epoch 0 draws it. -/
def chipOf (g : Descriptor) (bp : Byte) : Chip :=
  { id := g.id, mem := [], epoch := 0, bp := bp, wel := false, busy := false, geom := some g }

/-- The block attached to `g`, ready and idle, with the choices `cs` to come. -/
def session (g : Descriptor) (bp : Byte) (cs : List Choice) : State :=
  { State.reset with
    params := fixtureParams, seq := .ready, handle := .open, desc := some g, clockHz := some g.maxClockHz
    chip := chipOf g bp, oracle := cs }

/-- The block right after reset, before any ATTACH, with the choices `cs` to come. -/
def fresh (cs : List Choice) : State :=
  { State.reset with params := fixtureParams, chip := chipOf fixture2M 0, oracle := cs }

/-- An operation of `FIXTURE-2M` at position `p`. -/
def inFlight (q : Seq) (p : Phase) (r : ReqRegs) (bp : Byte) (cs : List Choice) : State :=
  { session fixture2M bp cs with seq := q, phase := p, req := r }

/-- Looks at a next state. -/
def onNext {α : Type} (f : State → α) : Outcome → Option α
  | .next t => some (f t)
  | .fault _ => none
  | .refused _ => none

/-! ### Ill-formed terms -/

theorem test_wf_write_too_long (d : List Byte) (h : 2 ^ 32 ≤ d.length) : (Instr.write 0 d).wf = false := by
  simp only [Instr.wf, decide_eq_false_iff_not]
  omega

/-- SE at an unaligned address and past the array (41_codec.md R157). -/
theorem test_legal_se :
    (Instr.se 0x001800).legal fixtureParams fixture2M = false ∧ (Instr.se 0x200000).legal fixtureParams fixture2M = false
      ∧ (Instr.se 0x1FF000).legal fixtureParams fixture2M = true := by decide

/-- PP with no byte, across a page boundary, and past the array (R159). -/
theorem test_legal_pp :
    (Instr.pp 0 []).legal fixtureParams fixture2M = false
      ∧ (Instr.pp 0x0000FF [0x11, 0x22]).legal fixtureParams fixture2M = false
      ∧ (Instr.pp 0x200000 [0x11]).legal fixtureParams fixture2M = false
      ∧ (Instr.pp 0x0000FF [0x11]).legal fixtureParams fixture2M = true := by decide

theorem test_legal_pp_oversize (d : List Byte) (h : 256 < d.length) :
    (Instr.pp 0 d).legal fixtureParams fixture2M = false := by
  have : ¬ d.length ≤ 256 := by omega
  simp [Instr.legal, fixture2M, this]

/-- READ_DATA of no byte, beyond `MAX_READ`, and past the array (R160). -/
theorem test_legal_readData :
    (Instr.readData 0 0).legal fixtureParams fixture2M = false
      ∧ (Instr.readData 0 257).legal fixtureParams fixture2M = false
      ∧ (Instr.readData 0x1FFFFF 2).legal fixtureParams fixture2M = false
      ∧ (Instr.readData 0x1FFFFF 1).legal fixtureParams fixture2M = true := by decide

/-- Each check of 40_registry.md R141 about one entry, items 1 and 3 to 10. -/
theorem test_descriptorWf_refuses :
    descriptorWf 260 { fixture2M with id := [0xA5, 0x5A] } = false
      ∧ descriptorWf 260 { fixture2M with id := [0, 0, 0] } = false
      ∧ descriptorWf 260 { fixture2M with id := [0xFF, 0xFF, 0xFF] } = false
      ∧ descriptorWf 260 { fixture2M with size := 0 } = false
      ∧ descriptorWf 260 { fixture2M with size := 2 ^ 24 + 0x1000 } = false
      ∧ descriptorWf 260 { fixture2M with sectorSize := 0x1800, size := 0x180000 } = false
      ∧ descriptorWf 260 { fixture2M with pageSize := 0xC0 } = false
      ∧ descriptorWf 260 { fixture2M with pageSize := 0x100, sectorSize := 0x80 } = false
      ∧ descriptorWf 260 { fixture2M with size := 0x200100 } = false
      ∧ descriptorWf 259 fixture2M = false
      ∧ descriptorWf 260 { fixture2M with maxClockHz := 0 } = false
      ∧ descriptorWf 260 { fixture2M with bpMask := 0x1D } = false
      ∧ descriptorWf 260 { fixture2M with ops := { defaultOpcodes with wren := 0x05 } } = false
      ∧ descriptorWf 260 { fixture2M with name := [] } = false
      ∧ descriptorWf 260 { fixture2M with name := [0x0A] } = false := by decide

/-- Item 2 of R141, and the bounds of 00_scope.md R9. -/
theorem test_paramsWf_refuses :
    paramsWf { fixtureParams with registry := [fixture2M, { fixture1M with id := fixture2M.id }] } = false
      ∧ paramsWf { fixtureParams with identClockHz := 0 } = false
      ∧ paramsWf { fixtureParams with clockCapHz := some 0 } = false
      ∧ paramsWf { fixtureParams with maxRead := 0 } = false
      ∧ paramsWf { fixtureParams with registry := [], maxWriteFrame := 4 } = false
      ∧ paramsWf fixtureParams = true := by decide

/-- Ill-formed parameters build no machine (93_implementation_defined.md U11). -/
theorem test_instantiate_refuses :
    instantiate { fixtureParams with maxRead := 0 } = .refused .illFormedParameters := by
  simp [instantiate, show paramsWf { fixtureParams with maxRead := 0 } = false by decide]

/-! ### Decoding -/

/-- The requests' op codes, bit by bit (30_encoding.md R101), with the fields R100 gives each. -/
theorem test_decode_requests :
    decodeRequest { op := 0b0000, vid := 0x0403, pid := 0x6010, ifidx := 1 } = .ok (.attach 0x0403 0x6010 1)
      ∧ decodeRequest { op := 0b0001 } = .ok .release
      ∧ decodeRequest { op := 0b0010 } = .ok .size
      ∧ decodeRequest { op := 0b0011 } = .ok .name
      ∧ decodeRequest { op := 0b0100 } = .ok .frequency
      ∧ decodeRequest { op := 0b0101 } = .ok .flags
      ∧ decodeRequest { op := 0b0110 } = .ok .status
      ∧ decodeRequest { op := 0b0111, timeout := 5 } = .ok (.setTimeout 5)
      ∧ decodeRequest { op := 0b1000 } = .ok .unlock
      ∧ decodeRequest { op := 0b1001, offset := 0x1800, length := 0x1000, bestEffort := true }
          = .ok (.erase 0x1800 0x1000 false true)
      ∧ decodeRequest { op := 0b1010, offset := 0x7020, length := 128 } = .ok (.read 0x7020 128)
      ∧ decodeRequest { op := 0b1011, offset := 0xFE, data := [0x12, 0x34, 0x56] }
          = .ok (.write 0xFE [0x12, 0x34, 0x56]) := by decide

/-- A field an operation does not use is ignored (R100). -/
theorem test_decode_ignores_unused :
    decodeRequest { op := 0b0010, vid := 7, offset := 9, length := 9, bulk := true, timeout := 3, data := [1] } = .ok .size := by
  decide

/-- Op codes 0xC to 0xF are reserved (R102). -/
theorem test_decode_reserved :
    decodeRequest { op := 0b1100 } = .error (.reservedOp 0xC) ∧ decodeRequest { op := 0b1101 } = .error (.reservedOp 0xD)
      ∧ decodeRequest { op := 0b1110 } = .error (.reservedOp 0xE)
      ∧ decodeRequest { op := 0b1111 } = .error (.reservedOp 0xF) := by decide

/-- The bound on `data` (R100): such a record is no request of any op code, and the step has no meaning for it. -/
theorem test_decode_data_bound (r : Request) (h : 2 ^ 32 ≤ r.data.length) :
    decodeRequest r = .error .dataTooLong ∧ takeRequest r (fresh []) = .refused .malformedRequest := by
  have hd : decodeRequest r = .error .dataTooLong := by
    rw [decodeRequest, if_neg (by simpa [requestFits] using h)]
  refine ⟨hd, ?_⟩
  unfold takeRequest decode
  simp only [hd]

/-- The frames, the opcode bit by bit, the rest from the table of 95_test_vectors.md section 3. -/
theorem test_decode_frames :
    decodeFrame defaultOpcodes [0b10011111] 3 = .ok .rdid
      ∧ decodeFrame defaultOpcodes [0b00000101] 1 = .ok .rdsr
      ∧ decodeFrame defaultOpcodes [0b00000110] 0 = .ok .wren
      ∧ decodeFrame defaultOpcodes [0b00000100] 0 = .ok .wrdi
      ∧ decodeFrame defaultOpcodes [0b00000001, 0b10000010] 0 = .ok (.wrsr 0x82)
      ∧ decodeFrame defaultOpcodes [0b00100000, 0b00011111, 0b11110000, 0b00000000] 0 = .ok (.se 0x1FF000)
      ∧ decodeFrame defaultOpcodes [0b11000111] 0 = .ok .be
      ∧ decodeFrame defaultOpcodes [0b00000010, 0b00000000, 0b00000000, 0b11111111, 0b00010001] 0
          = .ok (.pp 0x0000FF [0x11])
      ∧ decodeFrame defaultOpcodes [0b00000011, 0b00010010, 0b00110100, 0b01010110] 16 = .ok (.readData 0x123456 16) := by
  decide

/-- The same frames encoded (section 3), and its last row's other opcode. -/
theorem test_encode_frames :
    encodeFrame defaultOpcodes .rdid = [0x9F] ∧ encodeFrame defaultOpcodes .rdsr = [0x05]
      ∧ encodeFrame defaultOpcodes .wren = [0x06] ∧ encodeFrame defaultOpcodes .wrdi = [0x04]
      ∧ encodeFrame defaultOpcodes (.wrsr 0x00) = [0x01, 0x00] ∧ encodeFrame defaultOpcodes .be = [0xC7]
      ∧ encodeFrame defaultOpcodes (.se 0x1FF000) = [0x20, 0x1F, 0xF0, 0x00]
      ∧ encodeFrame defaultOpcodes (.pp 0x0000FF [0x11]) = [0x02, 0x00, 0x00, 0xFF, 0x11]
      ∧ encodeFrame defaultOpcodes (.readData 0x1FFFFF 1) = [0x03, 0x1F, 0xFF, 0xFF]
      ∧ encodeFrame { defaultOpcodes with se := 0xD8 } (.se 0) = [0xD8, 0x00, 0x00, 0x00] := by decide

/-- Bytes that are none of the nine frames are rejected by name (R111, R264). -/
theorem test_decode_rejects :
    decodeFrame defaultOpcodes [] 0 = .error .emptyFrame
      ∧ decodeFrame defaultOpcodes [0xAB] 0 = .error (.unknownOpcode 0xAB)
      ∧ decodeFrame defaultOpcodes [0x9F] 4 = .error (.badFormat 0x9F)
      ∧ decodeFrame defaultOpcodes [0x20, 0x00, 0x00] 0 = .error (.badFormat 0x20)
      ∧ decodeFrame defaultOpcodes [0x02, 0x00, 0x00] 0 = .error (.badFormat 0x02) := by decide

/-- R111: a PP of 0 payload bytes and a READ asking 0 bytes are a PP and a READ. -/
theorem test_decode_empty_operands :
    decodeFrame defaultOpcodes [0x02, 0x12, 0x34, 0x56] 0 = .ok (.pp 0x123456 [])
      ∧ decodeFrame defaultOpcodes [0x03, 0x12, 0x34, 0x56] 0 = .ok (.readData 0x123456 0) := by decide

/-- The words of spec/opcode_table.json. -/
theorem test_decode_table :
    decodeTableWord 4 0x0 = some (.attach 0 0 0) ∧ decodeTableWord 4 0xB = some (.write 0 [])
      ∧ decodeTableWord 8 0x9F = some .rdid ∧ decodeTableWord 8 0x20 = some (.se 0)
      ∧ decodeTableWord 8 0x03 = some (.readData 0 1) ∧ decodeTableWord 4 0xC = none := by decide

/-! ### Tables -/

/-- 95_test_vectors.md section 4, `bp_mask = 0x1C`, then `0x0C`. -/
theorem test_status_decode :
    ([0x00, 0x01, 0x02, 0x04, 0x1C, 0x1D, 0x80, 0xE3, 0xFF] : List Byte).map
        (fun s => (statusBusy s, lockOf 0x1C s))
      = [(false, .unlocked), (true, .unlocked), (false, .unlocked), (false, .locked), (false, .locked), (true, .locked),
          (false, .unlocked), (true, .unlocked), (true, .locked)]
      ∧ statusProtected 0x0C 0x10 = false ∧ statusProtected 0x0C 0x08 = true := by decide

/-- 95_test_vectors.md section 5. -/
theorem test_resolve :
    resolve fixtureParams.registry [0xA5, 0x5A, 0x15] = some fixture2M
      ∧ resolve fixtureParams.registry [0xA5, 0x5A, 0x14] = some fixture1M
      ∧ resolve fixtureParams.registry [0xA5, 0x5A, 0x16] = none
      ∧ resolve fixtureParams.registry [0x15, 0x5A, 0xA5] = none
      ∧ resolve fixtureParams.registry [0xFF, 0xFF, 0xFF] = none
      ∧ resolve fixtureParams.registry [0x00, 0x00, 0x00] = none := by decide

/-- 95_test_vectors.md section 7: the lengths of the chunks. -/
theorem test_chunks :
    chunkLength 256 0 257 0 = 256 ∧ chunkLength 256 0x100 257 256 = 1 ∧ chunkLength 256 0xFF 2 0 = 1
      ∧ chunkLength 256 0x10 0x220 0 = 0xF0 ∧ chunkLength 256 0x100 0x220 0xF0 = 0x100
      ∧ chunkLength 256 0x200 0x220 0x1F0 = 0x30 ∧ chunkLength 256 0x70F0 32 0 = 16 := by decide

/-- 95_test_vectors.md section 8, E5, E6, E7, E10, E11, E13: the effective range, and where one bulk erase is used. -/
theorem test_effective_range :
    effectiveRange 0x1000 0x1800 0x1000 true = (0x1000, 0x3000) ∧ effectiveRange 0x1000 0x1000 0x1000 true = (0x1000, 0x2000)
      ∧ effectiveRange 0x1000 0x1801 0 true = (0x1801, 0x1801) ∧ useBulk fixture2M 0 0x200000 true = true
      ∧ useBulk fixture2M 0 0x1000 true = false ∧ useBulk fixture1M 0 0x100000 true = false := by decide

/-! ### Single steps: the requests (95_test_vectors.md sections 8 to 11) -/

/-- A7. -/
theorem test_attach_ready :
    onNext (fun t => (t.response, t.seq, t.wire)) (exec (.attach 0x0403 0x6010 0) (session fixture2M 0 []))
      = some (some (.err (.invalidRequest .wrongState)), .ready, []) := by decide

/-- A2: with a cap of 20 MHz the last step of ATTACH sets the cap's clock, and the status is not known yet. -/
theorem test_attach_cap :
    onNext (fun t => (t.response, t.seq, t.clockHz, t.lockStatus, t.wire))
        (step { fresh [] with
          params := { fixtureParams with clockCapHz := some 20000000 }
          seq := .identifying, handle := .open, phase := .deviceClock fixture2M, lockStatus := .locked })
      = some (some (.ok .empty), .ready, some 20000000, .unknown, [.setClock 20000000]) := by decide

/-- A11: no `Close` where there is no link. -/
theorem test_release_unattached :
    onNext (fun t => (t.response, t.seq, t.wire)) (exec .release (fresh [])) = some (some (.ok .empty), .released, []) := by
  decide

/-- A12. -/
theorem test_release_ready :
    onNext (fun t => (t.response, t.seq, t.handle, t.wire)) (exec .release (session fixture2M 0 []))
      = some (some (.ok .empty), .released, .none, [.close]) := by decide

/-- A14, A15. -/
theorem test_size :
    onNext State.response (exec .size (session fixture2M 0 [])) = some (some (.ok (.size 2097152)))
      ∧ onNext State.response (exec .size (session fixture1M 0 [])) = some (some (.ok (.size 1048576))) := by decide

/-- A8. -/
theorem test_size_unattached :
    onNext State.response (exec .size (fresh [])) = some (some (.err (.invalidRequest .wrongState))) := by decide

/-- A14: `"FIXTURE-2M"`. -/
theorem test_name :
    onNext State.response (exec .name (session fixture2M 0 []))
      = some (some (.ok (.name [0x46, 0x49, 0x58, 0x54, 0x55, 0x52, 0x45, 0x2D, 0x32, 0x4D]))) := by decide

/-- A14, A15. -/
theorem test_frequency :
    onNext State.response (exec .frequency (session fixture2M 0 [])) = some (some (.ok (.clock (some 30000000))))
      ∧ onNext State.response (exec .frequency (session fixture1M 0 [])) = some (some (.ok (.clock (some 12000000)))) := by
  decide

/-- A14, A15. -/
theorem test_flags :
    onNext State.response (exec .flags (session fixture2M 0 [])) = some (some (.ok (.flags 0b011)))
      ∧ onNext State.response (exec .flags (session fixture1M 0 [])) = some (some (.ok (.flags 0b100))) := by decide

/-- A17. -/
theorem test_status_locked :
    onNext (fun t => (t.response, t.lockStatus, t.lastStatus, t.wire)) (exec .status (session fixture2M 0x1C [quiet]))
      = some (some (.ok (.status 0x1C)), .locked, some 0x1C, [.xfer .rdsr [0x05] 1 (some [0x1C])]) := by decide

/-- A18. -/
theorem test_status_fails :
    onNext (fun t => (t.response, t.lastStatus))
        (exec .status { session fixture2M 0x1C [failing] with lastStatus := some 0x00 })
      = some (some (.err (.transportError .exchange none)), some 0x00) := by decide

/-- A19, A20. -/
theorem test_set_timeout :
    onNext (fun t => (t.response, t.timeoutPolls)) (exec (.setTimeout 5) (fresh [])) = some (some (.ok .empty), some 5)
      ∧ onNext State.timeoutPolls (exec (.setTimeout 0) { session fixture2M 0 [] with timeoutPolls := some 5 })
          = some none := by decide

/-- U-6, A22. -/
theorem test_unlock_unsupported :
    onNext (fun t => (t.response, t.wire)) (exec .unlock (session fixture1M 0 []))
      = some (some (.err (.unsupportedOperation .lock)), []) := by decide

/-- U-3: the status 0x9C is written back with the protect bits cleared. -/
theorem test_unlock_keeps_vendor :
    onNext (fun t => (t.wire, t.phase))
        (step { inFlight .programming (.mutate .unlock) ReqRegs.blank 0x1C [quiet] with cur := 0x9C })
      = some ([.xfer (.wrsr 0x80) [0x01, 0x80] 0 (some [])], .waitDone .unlock) := by decide

/-- E15, E3, E9. -/
theorem test_erase_refusals :
    onNext State.response (exec (.erase 0x1FF001 0x2000 false false) (session fixture2M 0 []))
        = some (some (.err (.rangeError .bounds)))
      ∧ onNext State.response (exec (.erase 0x1800 0x1000 false false) (session fixture2M 0 []))
          = some (some (.err (.rangeError .alignment)))
      ∧ onNext (fun t => (t.response, t.wire)) (exec (.erase 0x2000 0 false false) (session fixture2M 0 []))
          = some (some (.ok (.range 0x2000 0x2000)), []) := by decide

/-- E13: the bulk flag on a device without the capability. -/
theorem test_erase_no_bulk :
    onNext State.phase (exec (.erase 0 0x100000 true false) (session fixture1M 0 [])) = some (.waitIdle .eraseSectors) := by
  decide

/-- RD4, RD5. -/
theorem test_read_edges :
    onNext (fun t => (t.response, t.wire)) (exec (.read 0x200000 0) (session fixture2M 0 [])) = some (some (.ok (.data [])), [])
      ∧ onNext State.response (exec (.read 0x200000 1) (session fixture2M 0 []))
          = some (some (.err (.rangeError .bounds))) := by decide

/-- W2: LockedError with the status just read, and no write-enable. -/
theorem test_write_locked :
    onNext (fun t => (t.response, t.seq, t.lockStatus, t.wire))
        (step (inFlight .programming (.waitIdle .write)
          { ReqRegs.blank with op := 0xB, offset := 0x7020, data := [0, 0] } 0x1C [quiet]))
      = some (some (.err (.lockedError 0x1C)), .ready, .locked, [.xfer .rdsr [0x05] 1 (some [0x1C])]) := by decide

/-- Section 7: a WRITE past the end, and one of nothing. -/
theorem test_write_edges :
    onNext State.response (exec (.write 0x200000 [0]) (session fixture2M 0x1C [])) = some (some (.err (.rangeError .bounds)))
      ∧ onNext State.response (exec (.write 0x200000 []) (session fixture2M 0 [])) = some (some (.ok (.count 0))) := by decide

/-! ### Single steps: the commands -/

/-- An idle `FIXTURE-2M` with the latch set, driven directly. -/
def bench : State := { fresh [quiet] with chip := { chipOf fixture2M 0 with wel := true } }

theorem bench_chip (cmd : Command) : (sendCommand cmd bench).chip = chipCommand quiet fixture2M cmd bench.chip :=
  sendCommand_chip ⟨rfl, .inl rfl⟩

theorem bench_unprotected (lo n : Nat) : protectedRange fixture2M bench.chip lo n = false :=
  protectedRange_false fun _ _ _ => rfl

/-- A5: a floating bus. -/
theorem test_rdid_unknown :
    onNext State.phase
        (step { fresh [quiet] with
          seq := .identifying, handle := .open, phase := .identify
          chip := { chipOf fixture2M 0 with id := [0xFF, 0xFF, 0xFF], geom := none } })
      = some (.closeLink (.unknownDevice [0xFF, 0xFF, 0xFF])) := by decide

/-- A1: the code, most significant byte first. -/
theorem test_rdid_known :
    onNext (fun t => (t.wire, t.phase))
        (step { fresh [quiet] with seq := .identifying, handle := .open, phase := .identify })
      = some ([.xfer .rdid [0x9F] 3 (some [0xA5, 0x5A, 0x15])], .deviceClock fixture2M) := by decide

/-- T6 in the prologue of a WRITE on a locked busy chip (section 12, last row). That row prints `Timeout(status = 0x1D)` and
no `committed`; the model's 0 is R285 and R288 as log 17 reads them. -/
theorem test_rdsr_timeout :
    onNext (fun t => (t.response, t.lastStatus, t.seq))
        (step { inFlight .programming (.waitIdle .write)
            { ReqRegs.blank with op := 0xB, offset := 0x7000, data := [0] } 0x1C [quiet] with
          chip := { chipOf fixture2M 0x1C with busy := true }, timeoutPolls := some 1 })
      = some (some (.err (.timeout 0x1D (some 0))), none, .ready) := by decide

/-- T7: bit 1 of the status is ignored. -/
theorem test_rdsr_vendor :
    onNext (fun t => (t.phase, t.lastStatus, t.lockStatus))
        (step (inFlight .erasing (.waitIdle .eraseBulk) ReqRegs.blank 0 [{ quiet with vendor := 0x02 }]))
      = some (.writeEnable .eraseBulk, some 0x02, .unlocked) := by decide

/-- K2, first frame. -/
theorem test_wren :
    onNext (fun t => t.chip.wel) (exec .wren (fresh [quiet])) = some true := by decide

/-- K7: WRDI clears the latch, and SE without it is ignored. -/
theorem test_wrdi :
    onNext (fun t => t.chip.wel) (exec .wrdi bench) = some false
      ∧ onNext State.chip (exec (.se 0) (fresh [quiet])) = some (chipOf fixture2M 0) := by decide

/-- K5. -/
theorem test_wrsr :
    onNext (fun t => (t.chip.bp, t.chip.busy))
        (exec (.wrsr 0) { fresh [quiet] with chip := { chipOf fixture2M 0x1C with wel := true } })
      = some (0, true) := by decide

/-- U-5: a chip that refuses the write keeps its protect bits. -/
theorem test_wrsr_refused :
    onNext (fun t => t.chip.bp)
        (exec (.wrsr 0)
          { fresh [{ quiet with refuses := true }] with chip := { chipOf fixture2M 0x1C with wel := true } })
      = some 0x1C := by decide

theorem chipByte_withBusy (ch : Chip) (b : Bool) (x : Nat) : chipByte { ch with busy := b } x = chipByte ch x := rfl

/-- K4, first erase. -/
theorem test_se_erases (a : Nat) (h : 0x7000 ≤ a ∧ a < 0x8000) :
    onNext (fun t => chipByte t.chip a) (exec (.se 0x007000) bench) = some 0xFF := by
  refine congrArg some (?_ : chipByte (sendCommand (.se 0x007000) bench).chip a = 0xFF)
  rw [bench_chip]
  simp only [chipCommand, chipSe, bench_unprotected, show bench.chip.busy = false from rfl,
    show bench.chip.wel = true from rfl, if_pos, Bool.false_eq_true, if_false]
  rw [if_pos (by decide)]
  rw [chipByte_withBusy, chipByte_chipStore (memWf_nil _)]
  exact if_pos (show 0x7000 ≤ a ∧ a < 0x7000 + 0x1000 by omega)

/-- E18: the exchange of the second SE fails. -/
theorem test_se_fails :
    onNext (fun t => (t.response, t.lastStatus, t.seq))
        (step { inFlight .erasing (.mutate .eraseSectors)
            { ReqRegs.blank with op := 0x9, offset := 0x1000, length := 0x2000 } 0 [failing] with
          addr := 0x2000, done := 1, mutated := true, lastStatus := some 0 })
      = some (some (.err (.transportError .exchange none)), none, .ready) := by decide

/-- K6. -/
theorem test_be_erases (a : Nat) (h : a < 0x200000) :
    onNext (fun t => chipByte t.chip a) (exec .be bench) = some 0xFF := by
  refine congrArg some (?_ : chipByte (sendCommand .be bench).chip a = 0xFF)
  rw [bench_chip]
  simp only [chipCommand, chipBe, show bench.chip.busy = false from rfl, show bench.chip.wel = true from rfl,
    Bool.false_eq_true, if_false, if_true]
  rw [if_neg (by decide)]
  rw [chipByte_withBusy, chipByte_chipStore (memWf_nil _)]
  exact if_pos (show 0 ≤ a ∧ a < 0 + 0x200000 by omega)

/-- K1: without the latch a page program is ignored. -/
theorem test_pp_unlatched :
    onNext State.chip (exec (.pp 0x000010 [0x0F]) (fresh [quiet])) = some (chipOf fixture2M 0) := by decide

/-- R261, R267: a driven PP of 0 bytes without the latch, and a driven READ of 0 bytes on a busy chip, change nothing. -/
theorem test_empty_operands_change_nothing :
    onNext State.chip (step { fresh [quiet] with inbox := [.frame [0x02, 0x00, 0x00, 0x10] 0] })
        = some (chipOf fixture2M 0)
      ∧ onNext (fun t => (t.chip, t.probeReply))
          (step { fresh [quiet] with
            chip := { chipOf fixture2M 0 with busy := true }, inbox := [.frame [0x03, 0x00, 0x00, 0x10] 0] })
          = some ({ chipOf fixture2M 0 with busy := true }, []) := by decide

/-- K2 on a byte that held 0xF0. -/
theorem test_pp_ands (h : Config.flashByte 0 0x10 = 0xF0) :
    onNext (fun t => chipByte t.chip 0x10) (exec (.pp 0x000010 [0x3C]) bench) = some 0x30 := by
  refine congrArg some (?_ : chipByte (sendCommand (.pp 0x000010 [0x3C]) bench).chip 0x10 = 0x30)
  rw [bench_chip]
  simp only [chipCommand, chipPp, bench_unprotected, show bench.chip.busy = false from rfl,
    show bench.chip.wel = true from rfl, if_pos, Bool.false_eq_true, if_false]
  rw [if_pos (by decide), if_pos (by decide)]
  rw [chipByte_withBusy, chipByte_chipStore (memWf_nil _), if_pos (by decide)]
  show Config.flashByte 0 0x10 &&& 0x3C = 0x30
  rw [h]
  decide

/-- R259, R265: a payload longer than the page on a locked chip changes no protected byte of the page. -/
theorem test_pp_oversize_protected (c : Choice) (bp : Byte) (x : Nat)
    (h : protectedByte fixture2M (chipOf fixture2M bp) x = true) :
    oversizedByte c fixture2M (chipOf fixture2M bp) x = chipByte (chipOf fixture2M bp) x := if_pos h

/-- R265: an SE whose sector lies past the array changes no protected byte of a locked chip. -/
theorem test_se_past_array_protected (c : Choice) (bp : Byte) (x : Nat) (hx : x < fixture2M.size)
    (h : protectedByte fixture2M (chipOf fixture2M bp) x = true) :
    chipByte (chipSe c fixture2M 0x200000 { chipOf fixture2M bp with wel := true }) x = chipByte (chipOf fixture2M bp) x :=
  chipByte_chipUnprotectedOpen hx h

/-- K3: which payload byte lands where when a page program runs past its page. -/
theorem test_pp_wraps :
    pageIndex 0x100 0x70F0 0x70F0 = 0 ∧ pageIndex 0x100 0x70F0 0x70FF = 15 ∧ pageIndex 0x100 0x70F0 0x7000 = 16
      ∧ pageIndex 0x100 0x70F0 0x700F = 31 ∧ pageIndex 0x100 0x70F0 0x7010 = 32 := by decide

/-- RD1: the third frame, and the bytes of the second arrived. -/
theorem test_readData_last_batch :
    onNext (fun t => (t.seq, t.wire.map fun e => match e with | .xfer _ w n _ => (w, n) | _ => ([], 0)))
        (step { inFlight .reading .readData { ReqRegs.blank with op := 0xA, offset := 0x10, length := 150 } 0 [quiet] with
          params := { fixtureParams with maxRead := 64 }, addr := 0x90, acc := List.replicate 128 0 })
      = some (.ready, [([0x03, 0x00, 0x00, 0x90], 22)]) := by decide +kernel

/-- RD6: a failed exchange of a READ answers no data and leaves the status registers alone. -/
theorem test_readData_fails :
    onNext (fun t => (t.response, t.lastStatus))
        (step { inFlight .reading .readData { ReqRegs.blank with op := 0xA, offset := 0x10, length := 150 } 0 [failing] with
          addr := 0x50, acc := List.replicate 64 0, lastStatus := some 0 })
      = some (some (.err (.transportError .exchange none)), some 0) := by decide

/-! ### The step around the instructions -/

/-- A9, A10: a reserved op code, also in Released. -/
theorem test_reserved_op :
    onNext State.response (step { fresh [] with inbox := [.request { op := 0xC }] })
        = some (some (.err (.invalidRequest .reservedOp)))
      ∧ onNext State.response (step { fresh [] with seq := .released, inbox := [.request { op := 0xF }] })
          = some (some (.err (.invalidRequest .reservedOp))) := by decide

/-- The table's words run as the first instruction after reset. -/
theorem test_withFetchWord :
    onNext State.response (step ((fresh []).withFetchWord 4 0x1)) = some (some (.ok .empty))
      ∧ onNext (fun t => t.chip.wel) (step ((fresh [quiet]).withFetchWord 8 0x06)) = some true := by decide

/-- R46: every field of the record on the port is latched, also those the operation does not use. -/
theorem test_latches_port :
    onNext State.req (step { session fixture2M 0 [] with
        inbox := [.request { op := 0x2, vid := 7, pid := 8, ifidx := 9, offset := 10, length := 11, bulk := true
                             bestEffort := true, timeout := 12, data := [13] }] })
      = some { op := 0x2, vid := 7, pid := 8, ifidx := 9, offset := 10, length := 11, bulk := true, bestEffort := true
               timeout := some 12, data := [13] } := by decide

/-- U16: a frame from outside while the block holds the link. -/
theorem test_shared_chip :
    step { session fixture2M 0 [] with inbox := [.frame [0x06] 0] } = .refused .sharedChip := by rfl

/-! ### Witnesses: states and operands that meet the hypotheses of the statements -/

theorem session_inv (g : Descriptor) (hg : g ∈ fixtureParams.registry) (bp : Byte) (cs : List Choice) :
    SessionInv (session g bp cs) :=
  ⟨show paramsWf fixtureParams = true by decide, rfl, ⟨fun _ => .inl rfl, fun _ => rfl⟩,
    ⟨fun _ => nofun, fun h => h.elim nofun nofun, fun d hd => (Option.some.inj hd) ▸ hg, nofun⟩,
    ⟨fun h => h.elim nofun nofun, fun d _ hd => (Option.some.inj hd) ▸ rfl⟩, nofun, nofun, fun _ _ => trivial,
    ⟨show 0 < 2 ^ 32 by decide, show 0 < 2 ^ 32 by decide⟩⟩

theorem session_2M_inv (bp : Byte) (cs : List Choice) : SessionInv (session fixture2M bp cs) :=
  session_inv _ (by decide) _ _

theorem session_memory (g : Descriptor) (bp : Byte) (cs : List Choice) : MemoryInv (session g bp cs) := memWf_nil _

theorem session_ready (g : Descriptor) (bp : Byte) (cs : List Choice) : readyWith g (session g bp cs) := ⟨rfl, rfl, rfl⟩

theorem fresh_inv (cs : List Choice) : SessionInv (fresh cs) :=
  ⟨show paramsWf fixtureParams = true by decide, rfl, ⟨nofun, fun h => h.elim nofun (fun h => nomatch h.1)⟩,
    ⟨nofun, fun _ => rfl, nofun, nofun⟩, ⟨fun _ => rfl, nofun⟩, nofun, nofun, nofun, ⟨show 0 < 2 ^ 32 by decide, show 0 < 2 ^ 32 by decide⟩⟩

theorem bench_memory : MemoryInv bench := memWf_nil _

theorem bench_reaches : reachesIdle fixture2M bench := ⟨rfl, rfl, .inl rfl⟩

/-- DecodeOfEncode, at the bounds of `wf`. -/
theorem witness_DecodeOfEncode :
    opcodesWf defaultOpcodes = true ∧ (Instr.pp 0xFFFFFF []).wf = true ∧ (Instr.readData 0xFFFFFF 0).wf = true
      ∧ (Instr.write 0xFFFFFFFF []).wf = true := by decide

/-- EncodeOfDecodedFrame. -/
theorem witness_EncodeOfDecodedFrame : decodeFrame defaultOpcodes [0x03, 0xFF, 0xFF, 0xFF] 1 = .ok (.readData 0xFFFFFF 1) := by
  decide

/-- StepRunsRequestOnPort, both clauses. -/
theorem witness_StepRunsRequestOnPort :
    (∃ s : State, s.phase = .idle ∧ s.inbox = [.request { op := 0xB }] ∧ decodeRequest { op := 0xB } = .ok (.write 0 [])
        ∧ s.responsePending = false)
      ∧ ∃ s : State, s.phase = .idle ∧ s.inbox = [.request { op := 0x0 }]
        ∧ decodeRequest { op := 0x0 } = .ok (.attach 0 0 0) ∧ s.responsePending = true ∧ s.response = some (.ok .empty) :=
  ⟨⟨{ session fixture2M 0 [] with inbox := [.request { op := 0xB }] }, rfl, rfl, by decide, rfl⟩,
    ⟨{ session fixture2M 0 [] with
        inbox := [.request { op := 0x0 }], responsePending := true, response := some (.ok .empty) },
      rfl, rfl, by decide, rfl, rfl⟩⟩

/-- StepRunsRequestOnPort, delivery: whatever stands in the queue. -/
theorem witness_StepRunsRequestOnPort_delivery (queue : List Input) :
    ∃ s : State, s.phase = .idle ∧ s.responsePending = true ∧ s.response = some (.ok .empty) ∧ s.inbox = queue :=
  ⟨{ session fixture2M 0 [] with inbox := queue, responsePending := true, response := some (.ok .empty) },
    rfl, rfl, rfl, rfl⟩

/-- StepRunsDirectFrame, both clauses. -/
theorem witness_StepRunsDirectFrame :
    (∃ s : State, s.phase = .idle ∧ s.responsePending = false ∧ s.inbox = [.frame [0x01, 0xFF] 0] ∧ s.handle = .none
        ∧ decode (chipOpcodes s) (.frame [0x01, 0xFF] 0) = .ok (.wrsr 0xFF))
      ∧ ∃ s : State, s.phase = .idle ∧ s.responsePending = false ∧ s.inbox = [.frame [] 0] ∧ s.handle = .none
        ∧ decode (chipOpcodes s) (.frame [] 0) = .error .emptyFrame :=
  ⟨⟨{ fresh [] with inbox := [.frame [0x01, 0xFF] 0] }, rfl, rfl, rfl, rfl, by decide⟩,
    ⟨{ fresh [] with inbox := [.frame [] 0] }, rfl, rfl, rfl, rfl, by decide⟩⟩

/-- StepRunsCommandInFlight: RDID in a state without a descriptor, and a state for each other position. -/
theorem witness_StepRunsCommandInFlight_identify :
    ∃ s : State, s.phase = .identify ∧ s.seq = .identifying ∧ s.handle = .open ∧ s.desc = none :=
  ⟨{ fresh [quiet] with seq := .identifying, handle := .open, phase := .identify }, rfl, rfl, rfl, rfl⟩


theorem witness_StepRunsCommandInFlight (p : Phase) :
    ∃ s : State, s.desc = some fixture2M ∧ s.phase = p := ⟨{ session fixture2M 0 [] with phase := p }, rfl, rfl⟩

/-- AcceptanceFollowsState, both clauses, and a state for each half of the first. -/
theorem witness_AcceptanceFollowsState :
    acceptedIn .size = some [.ready] ∧ seqAccepts (inFlight .reading .readData ReqRegs.blank 0 []).seq = false
      ∧ ({ session fixture2M 0 [] with responsePending := true } : State).responsePending = true
      ∧ seqAccepts (fresh []).seq = true ∧ (fresh []).responsePending = false ∧ (fresh []).seq ∉ [Seq.ready] := by decide

/-- AcceptanceFollowsState, third clause: in Unattached, and in Ready with a descriptor. -/
theorem witness_AcceptanceFollowsState_latches :
    (∃ s : State, s.phase = .idle ∧ s.responsePending = false ∧ s.inbox = [.request { op := 0x7, timeout := 1 }]
        ∧ decodeRequest { op := 0x7, timeout := 1 } = .ok (.setTimeout 1) ∧ s.seq ∈ [Seq.unattached, .ready]
        ∧ (s.seq = .ready → s.desc ≠ none))
      ∧ ∃ s : State, s.phase = .idle ∧ s.responsePending = false ∧ s.inbox = [.request { op := 0xB, data := [0xFF] }]
        ∧ decodeRequest { op := 0xB, data := [0xFF] } = .ok (.write 0 [0xFF]) ∧ s.seq ∈ [Seq.ready]
        ∧ (s.seq = .ready → s.desc ≠ none) :=
  ⟨⟨{ fresh [] with inbox := [.request { op := 0x7, timeout := 1 }] }, rfl, rfl, rfl, by decide, by decide, nofun⟩,
    ⟨{ session fixture2M 0 [] with inbox := [.request { op := 0xB, data := [0xFF] }] }, rfl, rfl, rfl, by decide, by decide,
      fun _ => nofun⟩⟩

/-- ReservedOpAnswered, at the lowest reserved op code. -/
theorem witness_ReservedOpAnswered :
    ∃ (s : State) (r : Request), 12 ≤ r.op.toNat ∧ r.data.length < 2 ^ 32 ∧ s.phase = .idle ∧ s.responsePending = false
      ∧ seqAccepts s.seq = true ∧ s.inbox = [.request r] :=
  ⟨{ fresh [] with inbox := [.request { op := 0xC }] }, { op := 0xC }, by decide, by decide, rfl, rfl, rfl, rfl⟩

/-- AttachAccepted, SetTimeoutWritesBudget (first case), ReleaseEndsSession (second clause). -/
theorem witness_unattached : (fresh []).seq = .unattached ∧ (fresh []).responsePending = false := ⟨rfl, rfl⟩

/-- AttachSucceeds, its clock clauses: a cap below the device's clock, and none. -/
theorem witness_AttachSucceeds_cap :
    ({ fixtureParams with clockCapHz := some 20000000 } : Params).clockCapHz = some 20000000
      ∧ min fixture2M.maxClockHz 20000000 = 20000000 ∧ fixtureParams.clockCapHz = none := by decide

/-- AttachSucceeds. -/
theorem witness_AttachSucceeds :
    ∃ s : State, s.phase = .openLink ∧ s.seq = .identifying ∧ s.desc = none ∧ s.oracle = [quiet, quiet]
      ∧ quiet.openFails = false ∧ quiet.busy = false ∧ quiet.xferFails = false
      ∧ resolve s.params.registry [quiet.id0, quiet.id1, quiet.id2] = some fixture2M :=
  ⟨{ fresh [quiet, quiet] with phase := .openLink, seq := .identifying }, rfl, rfl, rfl, rfl, rfl, rfl, rfl, by decide⟩

/-- AttachFailureClosesLink, its four clauses. -/
theorem witness_AttachFailureClosesLink :
    (∃ s : State, s.phase = .openLink ∧ s.seq = .identifying ∧ s.handle = .none ∧ (nextChoice s).openFails = true)
      ∧ (∃ s : State, s.phase = .identify ∧ s.handle = .open ∧ (nextChoice s).xferFails = true)
      ∧ (∃ s : State, s.phase = .identify ∧ s.handle = .open ∧ (nextChoice s).xferFails = false
          ∧ resolve s.params.registry (exchangeReply (nextChoice s) .rdid s) = none)
      ∧ ∃ s : State, s.phase = .closeLink (.unknownDevice [0xFF, 0xFF, 0xFF]) ∧ s.seq = .identifying :=
  ⟨⟨{ fresh [{ quiet with openFails := true }] with phase := .openLink, seq := .identifying }, rfl, rfl, rfl, rfl⟩,
    ⟨{ fresh [failing] with phase := .identify, handle := .open }, rfl, rfl, rfl⟩,
    ⟨{ fresh [quiet] with
        phase := .identify, handle := .open, chip := { chipOf fixture2M 0 with id := [0xFF, 0xFF, 0xFF] } },
      rfl, rfl, rfl, by decide⟩,
    ⟨{ fresh [] with phase := .closeLink (.unknownDevice [0xFF, 0xFF, 0xFF]), seq := .identifying }, rfl, rfl⟩⟩

/-- ReleaseEndsSession, first and third clause; SetTimeoutWritesBudget, second case. -/
theorem witness_ReleaseEndsSession :
    (session fixture2M 0 []).seq = .ready ∧ (session fixture2M 0 []).responsePending = false
      ∧ acceptedIn (.attach 0 0 0) ≠ none ∧ ({ fresh [] with seq := .released } : State).seq = .released
      ∧ ({ fresh [] with seq := .released } : State).responsePending = false := by decide

/-- QueriesAnswer, UnlockBegins (both branches), EraseChecksThenBegins, ReadChecksThenBegins, WriteChecksThenBegins. -/
theorem witness_readyWith :
    readyWith fixture2M (session fixture2M 0 []) ∧ readyWith fixture1M (session fixture1M 0 [])
      ∧ fixture2M.supportsLock = true ∧ fixture1M.supportsLock = false := by
  exact ⟨session_ready _ _ _, session_ready _ _ _, rfl, rfl⟩

/-- The branches of EraseChecksThenBegins, ReadChecksThenBegins and WriteChecksThenBegins at the bounds of their ranges:
one past the end, the last unaligned byte, nothing at the end, the whole device, and the last sector. -/
theorem witness_begin_branches :
    fixture2M.size < 0x200000 + 1
      ∧ (¬ fixture2M.size < 0x1FFFFF + 1 ∧ 0x1FFFFF % fixture2M.sectorSize ≠ 0)
      ∧ (¬ fixture2M.size < 0x200000 + 0
          ∧ (effectiveRange fixture2M.sectorSize 0x200000 0 true).1
              = (effectiveRange fixture2M.sectorSize 0x200000 0 true).2)
      ∧ (¬ fixture2M.size < 0 + 0x200000 ∧ useBulk fixture2M 0 0x200000 true = true)
      ∧ (¬ fixture2M.size < 0x1FF000 + 0x1000 ∧ useBulk fixture2M 0x1FF000 0x1000 true = false) := by decide

/-- EraseChecksThenBegins, the clause on length 0: at the end of the device, and unaligned with best-effort. -/
theorem witness_erase_nothing :
    (0 : BitVec 32).toNat = 0 ∧ (0x200000 : BitVec 32).toNat ≤ fixture2M.size
      ∧ (0x200000 : BitVec 32).toNat % fixture2M.sectorSize = 0 ∧ (0x1801 : BitVec 32).toNat ≤ fixture2M.size := by decide

/-- StatusReadsOnce, both clauses. -/
theorem witness_StatusReadsOnce :
    (nextChoice (session fixture2M 0x1C [quiet])).xferFails = false
      ∧ (nextChoice (session fixture2M 0x1C [failing])).xferFails = true
      ∧ readyWith fixture2M (session fixture2M 0x1C [quiet]) ∧ readyWith fixture2M (session fixture2M 0x1C [failing]) :=
  ⟨rfl, rfl, session_ready _ _ _, session_ready _ _ _⟩

/-- BoundsErrorExactlyOutOfRange: a request past the end and one of nothing at the end. -/
theorem witness_BoundsErrorExactlyOutOfRange :
    readyWith fixture2M (session fixture2M 0 [])
      ∧ (∃ o' n', Instr.read 0x200000 1 = .read o' n' ∧ 0x200000 = o'.toNat ∧ 1 = n'.toNat)
      ∧ ¬ 0x200000 + 1 ≤ fixture2M.size
      ∧ (∃ o' data, Instr.write 0x200000 [] = .write o' data ∧ 0x200000 = o'.toNat ∧ 0 = data.length)
      ∧ 0x200000 = fixture2M.size ∧ fixture2M.size % fixture2M.sectorSize = 0 :=
  ⟨session_ready _ _ _, ⟨_, _, rfl, by decide, by decide⟩, by decide, ⟨_, _, rfl, by decide, rfl⟩, rfl, by decide⟩

/-- RdsrReturnsStatus: driven directly, idle and busy, and over the link; `witness_busy` has the chip that completes. -/
theorem witness_reachesChip :
    (reachesChip fixture2M (fresh [quiet]) ∧ (fresh [quiet]).chip.busy = false ∧ (fresh [quiet]).handle = .none)
      ∧ (reachesChip fixture2M { fresh [quiet] with chip := { chipOf fixture2M 0 with busy := true } })
      ∧ (reachesChip fixture2M (session fixture2M 0 [quiet]) ∧ (session fixture2M 0 [quiet]).handle = .open
          ∧ (session fixture2M 0 [quiet]).phase = .idle)
      ∧ (chipOf fixture2M 0).id.length = 3 ∧ fixture2M.bpMask &&& 1 = 0 ∧ quiet.completes = false :=
  ⟨⟨⟨rfl, .inl rfl⟩, rfl, rfl⟩, ⟨rfl, .inl rfl⟩, ⟨⟨rfl, .inr ⟨rfl, rfl⟩⟩, rfl, rfl⟩, rfl, by decide, rfl⟩

/-- RdidReturnsCode: in an ATTACH, on a chip the registry does not know and on a busy one that it knows; over the link of a
session; and driven directly, idle and busy. -/
theorem witness_RdidReturnsCode :
    let attaching (ch : Chip) : State :=
      { fresh [quiet] with seq := .identifying, phase := .identify, handle := .open, chip := ch }
    let meets (s : State) : Prop := s.chip.id.length = 3 ∧ (nextChoice s).completes = false
      ∧ (s.handle = .open → (s.desc = none ∨ s.desc = s.chip.geom) ∧ (nextChoice s).xferFails = false)
    (meets (attaching { chipOf fixture2M 0 with id := [0xFF, 0xFF, 0xFF], geom := none })
        ∧ resolve fixtureParams.registry [0xFF, 0xFF, 0xFF] = none)
      ∧ meets (attaching { chipOf fixture2M 0 with busy := true }) ∧ meets (session fixture2M 0 [quiet])
      ∧ meets (fresh [quiet]) ∧ meets { fresh [quiet] with chip := { chipOf fixture2M 0 with busy := true } } :=
  ⟨⟨⟨rfl, rfl, fun _ => ⟨.inl rfl, rfl⟩⟩, by decide⟩, ⟨rfl, rfl, fun _ => ⟨.inl rfl, rfl⟩⟩,
    ⟨rfl, rfl, fun _ => ⟨.inr rfl, rfl⟩⟩, ⟨rfl, rfl, nofun⟩, ⟨rfl, rfl, nofun⟩⟩

/-- ReadDataReturnsArray: the last byte of the array and the first past it. -/
theorem witness_ReadDataReturnsArray :
    (0x1FFFFF : FlashAddr).toNat + 0 < fixture2M.size ∧ fixture2M.size ≤ (0x1FFFFF : FlashAddr).toNat + 1 := by decide

/-- RdsrReturnsStatus and ReadDataReturnsArray on a busy chip, one that stays so and one that completes, and
LatchGatesAndClears right before a frame: directly and over the link. -/
theorem witness_busy :
    (∃ s : State, reachesChip fixture2M s ∧ s.handle = .none ∧ s.chip.busy = true ∧ (nextChoice s).completes = false)
      ∧ (∃ s : State, reachesChip fixture2M s ∧ s.handle = .open ∧ s.chip.busy = true ∧ (nextChoice s).completes = false)
      ∧ (∃ s : State, reachesChip fixture2M s ∧ s.handle = .none ∧ s.chip.busy = true ∧ (nextChoice s).completes = true)
      ∧ ∃ s : State, reachesChip fixture2M s ∧ s.handle = .open ∧ s.chip.busy = true ∧ (nextChoice s).completes = true :=
  ⟨⟨{ bench with chip := { chipOf fixture2M 0 with busy := true } }, ⟨rfl, .inl rfl⟩, rfl, rfl, rfl⟩,
    ⟨{ session fixture2M 0 [quiet] with chip := { chipOf fixture2M 0 with busy := true } },
      ⟨rfl, .inr ⟨rfl, rfl⟩⟩, rfl, rfl, rfl⟩,
    ⟨{ bench with chip := { chipOf fixture2M 0 with busy := true }, oracle := [completing] },
      ⟨rfl, .inl rfl⟩, rfl, rfl, rfl⟩,
    ⟨{ session fixture2M 0 [completing] with chip := { chipOf fixture2M 0 with busy := true } },
      ⟨rfl, .inr ⟨rfl, rfl⟩⟩, rfl, rfl, rfl⟩⟩

/-- WrenSetsWrdiClearsLatch, ReadDataReturnsArray, CommandChipFrame: driven directly and over the link. -/
theorem witness_reachesIdle :
    (reachesIdle fixture2M bench ∧ bench.handle = .none)
      ∧ (reachesIdle fixture2M (session fixture2M 0 [quiet]) ∧ (session fixture2M 0 [quiet]).handle = .open)
      ∧ MemoryInv bench :=
  ⟨⟨bench_reaches, rfl⟩, ⟨⟨rfl, rfl, .inr ⟨rfl, rfl⟩⟩, rfl⟩, bench_memory⟩

/-- WrsrWritesProtectBits, both clauses. -/
theorem witness_WrsrWritesProtectBits :
    reachesIdle fixture2M bench ∧ bench.chip.wel = true ∧ (nextChoice bench).refuses = false
      ∧ (nextChoice { bench with oracle := [{ quiet with refuses := true }] }).refuses = true :=
  ⟨bench_reaches, rfl, rfl, rfl⟩

/-- SeErasesSector at the last sector, nothing protected. -/
theorem witness_SeErasesSector :
    reachesIdle fixture2M bench ∧ MemoryInv bench ∧ bench.chip.wel = true
      ∧ (0x1FFFFF : FlashAddr).toNat / fixture2M.sectorSize * fixture2M.sectorSize + fixture2M.sectorSize ≤ fixture2M.size
      ∧ ∀ x, protectedByte fixture2M bench.chip x = false :=
  ⟨bench_reaches, bench_memory, rfl, by decide, fun _ => rfl⟩

/-- SeErasesSector, the protected case: `PROT` is a free function, so this is a witness on every chip that protects
address 0 under some protect bits. -/
theorem witness_SeErasesSector_protected (h : Config.prot 0x1C 0 = true) :
    ∃ s : State, reachesIdle fixture2M s ∧ MemoryInv s ∧ s.chip.wel = true ∧ protectedByte fixture2M s.chip 0 = true :=
  ⟨{ bench with chip := { chipOf fixture2M 0x1C with wel := true } }, ⟨rfl, rfl, .inl rfl⟩, memWf_nil _, rfl, h⟩

/-- BeErasesChip, both clauses. -/
theorem witness_BeErasesChip :
    reachesIdle fixture2M bench ∧ MemoryInv bench ∧ bench.chip.wel = true ∧ bench.chip.bp &&& fixture2M.bpMask = 0
      ∧ ∃ s : State, reachesIdle fixture2M s ∧ MemoryInv s ∧ s.chip.wel = true ∧ s.chip.bp &&& fixture2M.bpMask ≠ 0 :=
  ⟨bench_reaches, bench_memory, rfl, by decide,
    ⟨{ bench with chip := { chipOf fixture2M 0x04 with wel := true } }, ⟨rfl, rfl, .inl rfl⟩, memWf_nil _, rfl, by decide⟩⟩

/-- PpAndsIntoPage at the last page, with a payload that wraps. -/
theorem witness_PpAndsIntoPage :
    reachesIdle fixture2M bench ∧ MemoryInv bench ∧ bench.chip.wel = true ∧ 1 ≤ [0x11, 0x22].length
      ∧ [0x11, 0x22].length ≤ fixture2M.pageSize
      ∧ (0x1FFFFF : FlashAddr).toNat / fixture2M.pageSize * fixture2M.pageSize + fixture2M.pageSize ≤ fixture2M.size
      ∧ ∀ x, protectedByte fixture2M bench.chip x = false :=
  ⟨bench_reaches, bench_memory, rfl, by decide, by decide, by decide, fun _ => rfl⟩

/-- PpAndsIntoPage, a payload one byte longer than the last page. -/
theorem witness_PpAndsIntoPage_oversize :
    List.replicate 257 (0 : Byte) ≠ [] ∧ fixture2M.pageSize < (List.replicate 257 (0 : Byte)).length :=
  ⟨List.cons_ne_nil _ _, by rw [List.length_replicate]; decide⟩

/-- PpAndsIntoPage, a protected page: the chip is free to protect address 0 under some protect bits. -/
theorem witness_PpAndsIntoPage_protected (h : Config.prot 0x1C 0 = true) :
    ∃ s : State, reachesIdle fixture2M s ∧ MemoryInv s ∧ s.chip.wel = true ∧ protectedByte fixture2M s.chip 0 = true :=
  witness_SeErasesSector_protected h

/-- LatchGatesAndClears, its first two clauses. -/
theorem witness_LatchGatesAndClears :
    (reachesIdle fixture2M (fresh [quiet]) ∧ (fresh [quiet]).chip.wel = false ∧ commandMutates .be = true)
      ∧ ∃ s : State, s.phase = .idle ∧ s.responsePending = false ∧ s.inbox = [] ∧ s.chip.busy = true
        ∧ (nextChoice s).completes = true :=
  ⟨⟨⟨rfl, rfl, .inl rfl⟩, rfl, rfl⟩,
    ⟨{ fresh [completing] with chip := { chipOf fixture2M 0 with busy := true } }, rfl, rfl, rfl, rfl, rfl⟩⟩

/-- FailedExchangeIsBounded: the failed RDID of an ATTACH, and a failed poll of a chip that stays busy. -/
theorem witness_FailedExchangeIsBounded_reads :
    (∃ s : State, s.handle = .open ∧ s.phase = .identify ∧ s.desc = none ∧ (nextChoice s).xferFails = true)
      ∧ ∃ s : State, s.handle = .open ∧ s.phase = .waitDone .write ∧ s.desc = s.chip.geom
        ∧ (nextChoice s).xferFails = true ∧ s.chip.busy = true ∧ (nextChoice s).completes = false :=
  ⟨⟨{ fresh [failing] with seq := .identifying, phase := .identify, handle := .open }, rfl, rfl, rfl, rfl⟩,
    ⟨{ inFlight .programming (.waitDone .write) ReqRegs.blank 0 [failing] with
        chip := { chipOf fixture2M 0 with busy := true } }, rfl, rfl, rfl, rfl, rfl, rfl⟩⟩

/-- FailedExchangeIsBounded, SeErasesSector, PpAndsIntoPage, their last clauses: a sector and a page just past the array. -/
theorem witness_past_the_array :
    (¬ (0x200000 : FlashAddr).toNat / fixture2M.sectorSize * fixture2M.sectorSize + fixture2M.sectorSize ≤ fixture2M.size)
      ∧ ¬ (0x200000 : FlashAddr).toNat / fixture2M.pageSize * fixture2M.pageSize + fixture2M.pageSize
          ≤ fixture2M.size := by decide

/-- FailedExchangeIsBounded, with an address of the last sector and page. -/
theorem witness_FailedExchangeIsBounded :
    ∃ s : State, s.handle = .open ∧ s.desc = some fixture2M ∧ s.chip.geom = some fixture2M ∧ s.chip.busy = false
      ∧ MemoryInv s ∧ (nextChoice s).xferFails = true
      ∧ (0x1FFFFF : FlashAddr).toNat / fixture2M.sectorSize * fixture2M.sectorSize + fixture2M.sectorSize ≤ fixture2M.size
      ∧ (0x1FFFFF : FlashAddr).toNat / fixture2M.pageSize * fixture2M.pageSize + fixture2M.pageSize ≤ fixture2M.size :=
  ⟨session fixture2M 0 [failing], rfl, rfl, rfl, rfl, session_memory _ _ _, rfl, by decide, by decide⟩

/-- RequestFrame: each instruction it names answers a next state in Ready, and the chip is the session's own. -/
theorem witness_RequestFrame :
    ([.attach 0 0 0, .release, .size, .name, .frequency, .flags, .status, .setTimeout 5, .unlock,
        .erase 0x1FF000 0x1000 false false, .read 0x1FFFFF 1, .write 0x1FFFFF [0]] : List Instr).all
        (fun i => (acceptedIn i).isSome && (onNext (fun _ => ()) (exec i (session fixture2M 0 [quiet]))).isSome) = true
      ∧ mismatched (session fixture2M 0 [quiet]) = false := by decide

/-- CommandFrame: driven directly, and over the link with no operation in flight. -/
theorem witness_CommandFrame (cmd : Command) :
    (∃ t, exec (commandInstr cmd) bench = .next t) ∧ bench.handle = .none
      ∧ (∃ t, exec (commandInstr cmd) (session fixture2M 0 [quiet]) = .next t)
      ∧ (session fixture2M 0 [quiet]).handle = .open ∧ (session fixture2M 0 [quiet]).phase = .idle := by
  cases cmd <;> exact ⟨⟨_, rfl⟩, rfl, ⟨_, rfl⟩, rfl, rfl⟩

/-- BusyStatusKeepsPolling: one read short of the budget. -/
theorem witness_BusyStatusKeepsPolling :
    ∃ s : State, s.phase = .waitDone .eraseSectors ∧ linkedTo fixture2M s ∧ fixture2M.bpMask &&& 1 = 0
      ∧ s.chip.busy = true ∧ (nextChoice s).completes = false ∧ ∀ n, s.timeoutPolls = some n → s.polls + 1 < n :=
  ⟨{ inFlight .erasing (.waitDone .eraseSectors) ReqRegs.blank 0 [quiet] with
      chip := { chipOf fixture2M 0 with busy := true }, timeoutPolls := some 2 },
    rfl, ⟨rfl, rfl, rfl, rfl⟩, by decide, rfl, rfl, fun n h => by cases h; decide⟩

/-- TimeoutAfterExactlyBudgetReads, at the smallest budget. -/
theorem witness_TimeoutAfterExactlyBudgetReads :
    ∃ s : State, s.phase = .waitIdle .write ∧ s.handle = .open ∧ s.desc = some fixture2M ∧ s.chip.geom = some fixture2M
      ∧ fixture2M.bpMask &&& 1 = 0 ∧ s.chip.busy = true ∧ s.seq = jobSeq .write ∧ s.polls = 0
      ∧ s.timeoutPolls = some 1 ∧ 1 ≤ 1 ∧ 1 ≤ s.oracle.length
      ∧ ∀ c ∈ s.oracle, c.xferFails = false ∧ c.completes = false :=
  ⟨{ inFlight .programming (.waitIdle .write) ReqRegs.blank 0 [quiet] with
      chip := { chipOf fixture2M 0 with busy := true }, timeoutPolls := some 1 },
    rfl, rfl, rfl, rfl, by decide, rfl, rfl, rfl, rfl, Nat.le_refl 1, Nat.le_refl 1,
    fun c hc => by rw [List.mem_singleton.mp hc]; exact ⟨rfl, rfl⟩⟩

/-- FreshStatusDecidesLock and the first clause of UnlockClearsProtectBits: unlocked, and locked by one bit. -/
theorem witness_lock_decision (j : Job) (bp : Byte) :
    ∃ s : State, s.phase = .waitIdle j ∧ s.seq = jobSeq j ∧ linkedTo fixture2M s ∧ fixture2M.bpMask &&& 1 = 0
      ∧ (chipSettle (nextChoice s) s.chip).busy = false ∧ s.chip.bp = bp :=
  ⟨inFlight (jobSeq j) (.waitIdle j) ReqRegs.blank bp [quiet], rfl, rfl, ⟨rfl, rfl, rfl, rfl⟩, by decide, rfl, rfl⟩

/-- The protect bits that decide it: none, and the lowest of the mask. -/
theorem witness_lock_bits :
    (0x00 : Byte) &&& fixture2M.bpMask = 0 ∧ (0x04 : Byte) &&& fixture2M.bpMask ≠ 0 ∧ Job.write ≠ .unlock := by decide

/-- MutatingCommandSequence, IdleStatusAdvancesJob and the other clauses of UnlockClearsProtectBits: a state for each
position. -/
theorem witness_job_position (j : Job) (p : Phase) (bp : Byte) :
    ∃ s : State, s.phase = p ∧ s.seq = jobSeq j ∧ linkedTo fixture2M s ∧ fixture2M.bpMask &&& 1 = 0
      ∧ s.chip.busy = false ∧ s.chip.bp = bp :=
  ⟨inFlight (jobSeq j) p ReqRegs.blank bp [quiet], rfl, rfl, ⟨rfl, rfl, rfl, rfl⟩, by decide, rfl, rfl⟩

/-- FreshStatusDecidesLock, UnlockClearsProtectBits, IdleStatusAdvancesJob: a busy chip that completes right before the
read, at each position and with any protect bits. -/
theorem witness_completing_position (j : Job) (p : Phase) (bp : Byte) :
    ∃ s : State, s.phase = p ∧ s.seq = jobSeq j ∧ linkedTo fixture2M s ∧ s.chip.busy = true
      ∧ (chipSettle (nextChoice s) s.chip).busy = false ∧ s.chip.bp = bp :=
  ⟨{ inFlight (jobSeq j) p ReqRegs.blank bp [completing] with chip := { chipOf fixture2M bp with busy := true } },
    rfl, rfl, ⟨rfl, rfl, rfl, rfl⟩, rfl, rfl, rfl⟩

/-- IdleStatusAdvancesJob: the last chunk of a WRITE of 32 bytes at 0x70F0, and the one before it. -/
theorem witness_last_chunk :
    ¬ 16 + min (32 - 16) (fixture2M.pageSize - 0x7100 % fixture2M.pageSize) < 32
      ∧ 0 + min (32 - 0) (fixture2M.pageSize - 0x70F0 % fixture2M.pageSize) < 32 := by decide

/-- IdleStatusAdvancesJob: the last sector of an ERASE of two, and the one before it. -/
theorem witness_last_sector :
    ¬ 0x2000 + fixture2M.sectorSize < (effectiveRange fixture2M.sectorSize 0x1000 0x2000 false).2
      ∧ 0x1000 + fixture2M.sectorSize < (effectiveRange fixture2M.sectorSize 0x1000 0x2000 false).2 := by decide

/-- TransportErrorExit, at each position. -/
theorem witness_TransportErrorExit (j : Job) :
    (∃ s : State, seqAgrees s ∧ s.handle = .open ∧ s.desc = some fixture2M ∧ (nextChoice s).xferFails = true
        ∧ s.phase = .mutate j)
      ∧ ∃ s : State, seqAgrees s ∧ s.handle = .open ∧ s.desc = some fixture2M ∧ (nextChoice s).xferFails = true
        ∧ s.phase = .readData :=
  ⟨⟨inFlight (jobSeq j) (.mutate j) ReqRegs.blank 0 [failing], rfl, rfl, rfl, rfl, rfl⟩,
    ⟨inFlight .reading .readData ReqRegs.blank 0 [failing], rfl, rfl, rfl, rfl, rfl⟩⟩

/-- ReadReturnsRequestedBytes: the last byte of the device. -/
theorem witness_ReadReturnsRequestedBytes :
    ∃ s : State, SessionInv s ∧ readyWith fixture2M s ∧ s.chip.geom = some fixture2M ∧ s.chip.busy = false
      ∧ (0x1FFFFF : BitVec 32).toNat + (1 : BitVec 32).toNat ≤ fixture2M.size ∧ (1 : BitVec 32).toNat ≠ 0
      ∧ (1 : BitVec 32).toNat ≤ s.oracle.length ∧ ∀ c ∈ s.oracle, c.xferFails = false :=
  ⟨session fixture2M 0 [quiet], session_2M_inv _ _, session_ready _ _ _, rfl, rfl, by decide, by decide, by decide,
    fun c hc => by rw [List.mem_singleton.mp hc]; rfl⟩

/-- WriteOkAndsData: a WRITE of the last byte, its chip busy for no status read. -/
theorem witness_WriteOkAndsData :
    ∃ s t u : State, SessionInv s ∧ MemoryInv s ∧ readyWith fixture2M s ∧ s.chip.geom = some fixture2M
      ∧ exec (.write 0x1FFFFF [0x5A]) s = .next u ∧ untilIdle 4 u = some t
      ∧ t.response = some (.ok (.count [0x5A].length)) :=
  ⟨session fixture2M 0 (List.replicate 4 completing), _, _, session_2M_inv _ _, session_memory _ _ _,
    session_ready _ _ _, rfl, rfl, rfl, rfl⟩

/-- EraseOkErasesRange: a bulk erase, and the last sector. -/
theorem witness_EraseOkErasesRange :
    ∃ s t u t' u' : State, SessionInv s ∧ MemoryInv s ∧ readyWith fixture2M s ∧ s.chip.geom = some fixture2M
      ∧ (exec (.erase 0 0x200000 true false) s = .next u ∧ untilIdle 4 u = some t
        ∧ t.response = some (.ok (.range 0 0x200000)))
      ∧ exec (.erase 0x1FF000 0x1000 false false) s = .next u' ∧ untilIdle 4 u' = some t'
      ∧ t'.response = some (.ok (.range 0x1FF000 0x200000)) :=
  ⟨session fixture2M 0 (List.replicate 4 completing), _, _, _, _, session_2M_inv _ _, session_memory _ _ _,
    session_ready _ _ _, rfl, ⟨rfl, rfl, rfl⟩, rfl, rfl, rfl⟩

/-- SequencerTransitionsLegal, StepKeepsSession, StepKeepsMemoryCanonical, StepKeepsWriteEnableGating,
StepKeepsFramesLegal: a session that takes an ERASE off the port, every invariant holding. -/
theorem witness_invariants :
    ∃ s t : State, SessionInv s ∧ MemoryInv s ∧ GatingInv s ∧ FramesInv s ∧ step s = .next t ∧ s.seq = .ready
      ∧ t.seq = .erasing :=
  ⟨{ session fixture2M 0 [] with inbox := [.request { op := 0x9, offset := 0x1FF000, length := 0x1000 }] }, _,
    session_2M_inv 0 [], session_memory fixture2M 0 [], ⟨rfl, rfl⟩, nofun, rfl, rfl, rfl⟩

/-- The wire invariants hold with frames on the wire too: at the page program of the last byte of the device. -/
theorem witness_wire :
    ∃ s : State, s.phase = .mutate .write ∧ GatingInv s ∧ FramesInv s ∧ s.wire.length = 2 := by
  refine ⟨{ inFlight .programming (.mutate .write) ReqRegs.blank 0 [quiet] with
      wire := [.xfer .wren [0x06] 0 (some []), .xfer .rdsr [0x05] 1 (some [0x00])] }, rfl, ⟨by decide, by decide⟩, ?_, rfl⟩
  intro e he
  rcases List.mem_cons.mp he with rfl | he
  · exact ⟨rfl, fun r h => by cases h; rfl, by decide, .inr ⟨fixture2M, List.mem_cons_self, rfl, rfl⟩⟩
  · rw [List.mem_singleton.mp he]
    exact ⟨rfl, fun r h => by cases h; rfl, by decide, .inr ⟨fixture2M, List.mem_cons_self, rfl, rfl⟩⟩

/-- StepAlwaysAnswers: with a request on the port of an attached block, and with a frame while there is no link. -/
theorem witness_StepAlwaysAnswers :
    (∃ s : State, SessionInv s ∧ (∀ w n, s.inbox.head? ≠ some (.frame w n)) ∧ s.inbox = [.request { op := 0x2 }]
        ∧ ∀ r, s.inbox.head? = some (.request r) → r.data.length < 2 ^ 32)
      ∧ SessionInv (fresh []) ∧ (fresh []).handle ≠ .open ∧ ∀ r, (fresh []).inbox.head? ≠ some (.request r) :=
  ⟨⟨{ session fixture2M 0 [] with inbox := [.request { op := 0x2 }] }, session_2M_inv 0 [], nofun, rfl,
      fun r h => by cases h; decide⟩, fresh_inv [], nofun, nofun⟩

/-- OnlyStatusReadsWriteLock. -/
theorem witness_OnlyStatusReadsWriteLock :
    ∃ s t : State, step s = .next t ∧ t.lockStatus ≠ s.lockStatus :=
  ⟨{ session fixture2M 0 [quiet] with inbox := [.request { op := 0x6 }] }, _, rfl, nofun⟩

/-- OnlySetTimeoutWritesBudget. -/
theorem witness_OnlySetTimeoutWritesBudget :
    ∃ s t : State, step s = .next t ∧ t.timeoutPolls ≠ s.timeoutPolls :=
  ⟨{ fresh [] with inbox := [.request { op := 0x7, timeout := 1 }] }, _, rfl, nofun⟩

/-- RefusedRequestsTouchNothing: each of its three errors. -/
theorem witness_RefusedRequestsTouchNothing :
    (accepting (session fixture1M 0 []) = true ∧ ∃ t, exec .unlock (session fixture1M 0 []) = .next t
        ∧ t.response = some (.err (.unsupportedOperation .lock)))
      ∧ (accepting (session fixture2M 0 []) = true ∧ ∃ t, exec (.read 0x200000 1) (session fixture2M 0 []) = .next t
        ∧ t.response = some (.err (.rangeError .bounds)))
      ∧ accepting (fresh []) = true ∧ ∃ t, exec .size (fresh []) = .next t
        ∧ t.response = some (.err (.invalidRequest .wrongState)) :=
  ⟨⟨rfl, _, rfl, rfl⟩, ⟨rfl, _, rfl, rfl⟩, rfl, _, rfl, rfl⟩

/-- StaleWorkingRegistersUnread: two different states with the same live part. -/
theorem witness_StaleWorkingRegistersUnread :
    ∃ s s' : State, liveView s = liveView s' ∧ s ≠ s' :=
  ⟨session fixture2M 0 [], { session fixture2M 0 [] with acc := [0x5A], addr := 7, cur := 1 }, rfl,
    fun h => nomatch congrArg State.acc h⟩

/-- ResolveIsLookup. -/
theorem witness_ResolveIsLookup :
    (fixtureParams.registry.map Descriptor.id).Nodup ∧ fixtureParams.registry.Perm [fixture1M, fixture2M]
      ∧ paramsWf fixtureParams = true := by
  exact ⟨by decide, List.Perm.swap _ _ _, by decide⟩

/-- EffectiveRangeCovers: the last byte with best-effort, and the last sector without. -/
theorem witness_EffectiveRangeCovers :
    descriptorWf 260 fixture2M = true ∧ 0x1FFFFF + 1 ≤ fixture2M.size ∧ 0x1FF000 + 0x1000 ≤ fixture2M.size
      ∧ 0x1FF000 % fixture2M.sectorSize = 0 ∧ 0x1000 % fixture2M.sectorSize = 0 := by decide

/-- NewBlockResets, both clauses. -/
theorem witness_NewBlockResets :
    ∃ s t : State, s.phase = .idle ∧ s.responsePending = false ∧ s.inbox = [.newBlock] ∧ SessionInv s
      ∧ s.seq = .released ∧ step s = .next t ∧ t.seq ≠ .released := by
  refine ⟨{ fresh [] with seq := .released, inbox := [.newBlock] }, _, rfl, rfl, rfl, ?_, rfl, rfl, nofun⟩
  exact ⟨show paramsWf fixtureParams = true by decide, rfl, ⟨nofun, fun h => h.elim nofun (fun h => nomatch h.1)⟩,
    ⟨nofun, fun _ => rfl, nofun, nofun⟩, ⟨fun _ => rfl, nofun⟩, nofun, nofun, nofun, ⟨show 0 < 2 ^ 32 by decide, show 0 < 2 ^ 32 by decide⟩⟩

end Sys2Proof.Tests
end

section
/-! Which working registers a step reads (10_state.md R47): every operation of the model, given a state and given its
live part, ends in states with the same live part. -/

namespace Sys2Proof.Machine

/-! ### States that differ in working registers -/

/-- The state with the five working registers given. -/
def setWork (a d p : Nat) (c : Byte) (x : List Byte) (s : State) : State :=
  { s with addr := a, done := d, polls := p, cur := c, acc := x }

/-- The live part of a state differs from it in working registers only. -/
theorem liveView_eq_setWork (s : State) : ∃ a d p c x, liveView s = setWork a d p c x s := by
  unfold liveView
  split <;> exact ⟨_, _, _, _, _, rfl⟩

/-- What reads no working register has the same value on the live part. -/
theorem liveView_invariant {α : Sort _} {f : State → α} (h : ∀ a d p c x s, f (setWork a d p c x s) = f s) (s : State) :
    f (liveView s) = f s := by
  obtain ⟨a, d, p, c, x, e⟩ := liveView_eq_setWork s
  rw [e, h]

@[simp] theorem liveView_phase (s : State) : (liveView s).phase = s.phase :=
  liveView_invariant (f := State.phase) (fun _ _ _ _ _ _ => rfl) s
@[simp] theorem liveView_handle (s : State) : (liveView s).handle = s.handle :=
  liveView_invariant (f := State.handle) (fun _ _ _ _ _ _ => rfl) s
@[simp] theorem liveView_desc (s : State) : (liveView s).desc = s.desc :=
  liveView_invariant (f := State.desc) (fun _ _ _ _ _ _ => rfl) s
@[simp] theorem liveView_seq (s : State) : (liveView s).seq = s.seq :=
  liveView_invariant (f := State.seq) (fun _ _ _ _ _ _ => rfl) s
@[simp] theorem liveView_responsePending (s : State) : (liveView s).responsePending = s.responsePending :=
  liveView_invariant (f := State.responsePending) (fun _ _ _ _ _ _ => rfl) s
@[simp] theorem liveView_inbox (s : State) : (liveView s).inbox = s.inbox :=
  liveView_invariant (f := State.inbox) (fun _ _ _ _ _ _ => rfl) s
@[simp] theorem liveView_accepting (s : State) : accepting (liveView s) = accepting s :=
  liveView_invariant (f := accepting) (fun _ _ _ _ _ _ => rfl) s
@[simp] theorem liveView_chipOpcodes (s : State) : chipOpcodes (liveView s) = chipOpcodes s :=
  liveView_invariant (f := chipOpcodes) (fun _ _ _ _ _ _ => rfl) s
@[simp] theorem liveView_portRecord (i : Instr) (s : State) : portRecord i (liveView s) = portRecord i s :=
  liveView_invariant (f := portRecord i) (fun _ _ _ _ _ _ => rfl) s
@[simp] theorem liveView_exchangeResult (cmd : Command) (s : State) :
    exchangeResult (nextChoice (liveView s)) cmd (liveView s) = exchangeResult (nextChoice s) cmd s :=
  liveView_invariant (f := fun s => exchangeResult (nextChoice s) cmd s) (fun _ _ _ _ _ _ => rfl) s

/-- The mutating frame of a job is the one its live registers give. -/
theorem jobFrame_liveView {s : State} {j : Job} (hp : s.phase = .mutate j) (d : Descriptor) :
    jobFrame d j (liveView s) = jobFrame d j s := by
  cases j <;> simp [liveView, hp, jobFrame, writeChunk]

theorem readFrame_liveView {s : State} (hp : s.phase = .readData) : readFrame (liveView s) = readFrame s := by
  simp [liveView, hp, readFrame]

/-! ### Operations that read live registers only -/

/-- `f` reads only working registers that are live. -/
def LiveOnly (f : State → State) : Prop := ∀ s, liveView (f (liveView s)) = liveView (f s)

/-- So does a meaning, whatever it answers. -/
def LiveOnlyOutcome (F : State → Outcome) : Prop := ∀ s, liveOutcome (F (liveView s)) = liveOutcome (F s)

theorem LiveOnly.comp {f g : State → State} (hg : LiveOnly g) (hf : LiveOnly f) : LiveOnly fun s => g (f s) :=
  fun s => by
    show liveView (g (f (liveView s))) = liveView (g (f s))
    rw [← hg (f (liveView s)), hf s, hg]

theorem LiveOnlyOutcome.comp {F : State → Outcome} {f : State → State} (hF : LiveOnlyOutcome F) (hf : LiveOnly f) :
    LiveOnlyOutcome fun s => F (f s) := fun s => by
  show liveOutcome (F (f (liveView s))) = liveOutcome (F (f s))
  rw [← hF (f (liveView s)), hf s, hF]

theorem LiveOnly.next {f : State → State} (h : LiveOnly f) : LiveOnlyOutcome fun s => .next (f s) :=
  fun s => congrArg Host.Outcome.next (h s)

/-- An operation whose live result no working register changes. -/
theorem liveOnly_of_setWork {f : State → State}
    (h : ∀ a d p c x s, liveView (f (setWork a d p c x s)) = liveView (f s)) : LiveOnly f :=
  liveView_invariant (f := fun s => liveView (f s)) h

/-- A branch on a condition that reads no working register. -/
theorem liveView_ite {P : Prop} [Decidable P] {t e t' e' : State} (ht : liveView t = liveView t')
    (he : liveView e = liveView e') : liveView (if P then t else e) = liveView (if P then t' else e') := by
  split
  · exact ht
  · exact he

theorem ite_setWork {P : Prop} [Decidable P] {a d p : Nat} {c : Byte} {x : List Byte} {t e t' e' : State}
    (ht : t' = setWork a d p c x t) (he : e' = setWork a d p c x e) :
    (if P then t' else e') = setWork a d p c x (if P then t else e) := by
  split
  · exact ht
  · exact he

/-- It is enough to consider each position in the operation. -/
theorem liveOnly_of_phase {f : State → State}
    (h : ∀ (p : Phase) (s : State),
      liveView (f (liveView { s with phase := p })) = liveView (f { s with phase := p })) : LiveOnly f := fun s => h s.phase s

/-- What the live part keeps of the working registers depends on them and the position alone. -/
theorem liveView_at (q : Phase) (a d p : Nat) (c : Byte) (x : List Byte) : ∃ a' d' p' c' x', ∀ s : State,
    liveView { setWork a d p c x s with phase := q } = setWork a' d' p' c' x' { s with phase := q } := by
  cases q with
  | waitIdle j | writeEnable j | mutate j | waitDone j => cases j <;> exact ⟨_, _, _, _, _, fun _ => rfl⟩
  | _ => exact ⟨_, _, _, _, _, fun _ => rfl⟩

theorem liveView_idem (s : State) : liveView (liveView s) = liveView s := by
  cases hp : s.phase with
  | waitIdle j | writeEnable j | mutate j | waitDone j => cases j <;> simp [liveView, hp]
  | _ => simp [liveView, hp]

/-- An operation that leaves the position and the working registers alone. -/
theorem liveOnly_of_frame {f : State → State} (hp : ∀ s, (f s).phase = s.phase)
    (hw : ∀ a d p c x s, f (setWork a d p c x s) = setWork a d p c x (f s)) : LiveOnly f := fun s => by
  obtain ⟨a, d, p, c, x, e⟩ := liveView_at s.phase s.addr s.done s.polls s.cur s.acc
  have hs : liveView s = setWork a d p c x s := e s
  have hf : liveView (f s) = setWork a d p c x (f s) := by
    have := e (f s)
    rwa [← hw, ← hp] at this
  rw [hs, hw, ← hf, liveView_idem]

theorem liveOnly_id : LiveOnly fun s => s := liveView_idem

/-! ### The shared operations -/

theorem liveOnly_accept (r : Request) : LiveOnly (accept r) := liveOnly_of_frame (fun _ => rfl) fun _ _ _ _ _ _ => rfl
theorem liveOnly_hold (r : Request) : LiveOnly (hold r) := liveOnly_of_frame (fun _ => rfl) fun _ _ _ _ _ _ => rfl
theorem liveOnly_popInbox : LiveOnly popInbox := liveOnly_of_frame (fun _ => rfl) fun _ _ _ _ _ _ => rfl
theorem liveOnly_putOnPort (r : Request) : LiveOnly (putOnPort r) :=
  liveOnly_of_frame (fun _ => rfl) fun _ _ _ _ _ _ => rfl
theorem liveOnly_exchanged (cmd : Command) : LiveOnly (exchanged cmd) :=
  liveOnly_of_frame (fun _ => rfl) fun _ _ _ _ _ _ => rfl
theorem liveOnly_recordStatus (d : Descriptor) (b : Byte) : LiveOnly (recordStatus d b) :=
  liveOnly_of_frame (fun _ => rfl) fun _ _ _ _ _ _ => rfl
theorem liveOnly_probe (cmd : Command) : LiveOnly (probe cmd) :=
  liveOnly_of_frame (fun _ => rfl) fun _ _ _ _ _ _ => rfl
theorem liveOnly_probeUnknown (n : Nat) : LiveOnly (probeUnknown n) :=
  liveOnly_of_frame (fun _ => rfl) fun _ _ _ _ _ _ => rfl
theorem liveOnly_chipIdles : LiveOnly chipIdles :=
  liveOnly_of_frame (fun s => by unfold chipIdles; split <;> rfl) fun a d p c x s => ite_setWork rfl rfl
theorem liveOnly_deliver : LiveOnly deliver :=
  liveOnly_of_frame (fun s => by unfold deliver; split <;> rfl) fun a d p c x s => by
    cases h : s.response <;> simp [deliver, setWork, h]

theorem liveOnly_succeed (v : Value) : LiveOnly (succeed v) := liveOnly_of_setWork fun _ _ _ _ _ _ => rfl
theorem liveOnly_refuseRequest (w : InvalidReason) : LiveOnly (refuseRequest w) :=
  liveOnly_of_setWork fun _ _ _ _ _ _ => rfl
theorem liveOnly_raiseError (e : ErrorRecord) : LiveOnly (raiseError e) :=
  liveOnly_of_setWork fun _ _ _ _ _ _ => by cases e <;> rfl
theorem liveOnly_enterJob (q : Seq) (j : Job) : LiveOnly (enterJob q j) :=
  liveOnly_of_setWork fun _ _ _ _ _ _ => by cases j <;> rfl
theorem liveOnly_newBlock : LiveOnly newBlock := liveOnly_of_setWork fun _ _ _ _ _ _ => rfl

/-! ### Requests -/

theorem liveOnly_withDesc {f : Descriptor → State → State} (h : ∀ d, LiveOnly (f d)) : LiveOnlyOutcome (withDesc f) :=
  fun s => by
    unfold withDesc
    rw [liveView_desc]
    split
    · next d _ => exact (h d).next s
    · rfl

/-- A request reads only live registers if what it begins does. -/
theorem liveOnly_present {i : Instr} {admits : Seq → Bool} {begin : State → Outcome} (h : LiveOnlyOutcome begin) :
    LiveOnlyOutcome fun s => present (portRecord i s) admits begin s := fun s => by
  simp only [present, liveView_accepting, liveView_seq, liveView_portRecord]
  split
  · split
    · exact h.comp (liveOnly_accept _) s
    · exact (liveOnly_refuseRequest _).next s
  · exact (liveOnly_hold _).next s

theorem liveOnly_statusExchange (d : Descriptor) : LiveOnly (statusExchange d) := fun s => by
  unfold statusExchange
  rw [liveView_exchangeResult]
  split
  · exact (liveOnly_succeed _).comp ((liveOnly_recordStatus _ _).comp (liveOnly_exchanged _)) s
  · exact (liveOnly_raiseError _).comp (liveOnly_exchanged _) s

theorem liveOnly_beginErase (o n : Nat) (bulk bestEffort : Bool) (d : Descriptor) :
    LiveOnly (beginErase o n bulk bestEffort d) := fun s => by
  unfold beginErase
  split
  · split
    · split
      · exact liveOnly_succeed _ s
      · split
        · exact liveOnly_enterJob _ _ s
        · exact liveOnly_enterJob _ _ s
    · exact liveOnly_raiseError _ s
  · exact liveOnly_raiseError _ s

theorem liveOnly_beginRead (o n : Nat) (d : Descriptor) : LiveOnly (beginRead o n d) := fun s => by
  unfold beginRead
  split
  · split
    · exact liveOnly_succeed _ s
    · exact liveOnly_of_setWork (f := fun s => { s with seq := .reading, phase := .readData, acc := [], addr := o })
        (fun _ _ _ _ _ _ => rfl) s
  · exact liveOnly_raiseError _ s

theorem liveOnly_beginWrite (o n : Nat) (d : Descriptor) : LiveOnly (beginWrite o n d) := fun s => by
  unfold beginWrite
  split
  · split
    · exact liveOnly_succeed _ s
    · exact liveOnly_enterJob _ _ s
  · exact liveOnly_raiseError _ s

/-! ### The result of an exchange -/

theorem liveOnly_identified (code : List Byte) : LiveOnly (identified code) :=
  liveOnly_of_setWork fun a d p c x s => by
    simp only [identified, setWork]
    split <;> rfl

/-- A status read: the branches are a busy status with and without budget left, and the lock decision or the end of the
job. -/
theorem liveOnly_statusRead (d : Descriptor) (b : Byte) : LiveOnly (statusRead d b) := liveOnly_of_phase fun p s => by
  cases p with
  | waitIdle j => cases j <;> exact liveView_ite (liveView_ite rfl rfl) (liveView_ite rfl rfl)
  | waitDone j =>
    cases j with
    | eraseBulk => exact liveView_ite (liveView_ite rfl rfl) rfl
    | _ => exact liveView_ite (liveView_ite rfl rfl) (liveView_ite rfl rfl)
  | writeEnable j | mutate j => cases j <;> rfl
  | _ => rfl

theorem liveOnly_enabled : LiveOnly enabled := liveOnly_of_phase fun p s => by
  cases p with
  | waitIdle j | writeEnable j | mutate j | waitDone j => cases j <;> rfl
  | _ => rfl

theorem liveOnly_mutationSent : LiveOnly mutationSent := liveOnly_of_phase fun p s => by
  cases p with
  | waitIdle j | writeEnable j | mutate j | waitDone j => cases j <;> rfl
  | _ => rfl

theorem liveOnly_abandon : LiveOnly abandon := liveOnly_of_phase fun p s => by
  cases p with
  | waitIdle j | writeEnable j | mutate j | waitDone j => cases j <;> rfl
  | _ => rfl

theorem liveOnly_gathered (r : List Byte) : LiveOnly (gathered r) := liveOnly_of_phase fun p s => by
  cases p with
  | waitIdle j | writeEnable j | mutate j | waitDone j => cases j <;> rfl
  | readData => exact liveView_ite rfl rfl
  | _ => rfl

/-- The session, taking the result of an exchange, reads only live registers. -/
theorem liveOnly_resume (cmd : Command) (r : List Byte) : LiveOnly (resume cmd r) := fun s => by
  cases cmd with
  | rdid =>
    simp only [resume, liveView_phase]
    split
    · exact liveOnly_identified r s
    · exact liveOnly_id s
  | rdsr =>
    simp only [resume, liveView_desc]
    split
    · exact liveOnly_statusRead _ _ s
    · exact liveOnly_id s
  | wren => exact liveOnly_enabled s
  | wrdi => exact liveOnly_id s
  | wrsr | se | be | pp => exact liveOnly_mutationSent s
  | readData => exact liveOnly_gathered r s

theorem liveOnly_sendCommand (cmd : Command) : LiveOnly (sendCommand cmd) := fun s => by
  unfold sendCommand
  rw [liveView_handle, liveView_exchangeResult]
  split
  · split
    · exact (liveOnly_resume _ _).comp (liveOnly_exchanged _) s
    · exact liveOnly_abandon.comp (liveOnly_exchanged _) s
  · exact liveOnly_probe _ s

/-- The end of a RELEASE. -/
theorem liveOnly_released : LiveOnly fun s => succeed .empty
    (if s.seq = .ready then { recordWire .close s with handle := .none, seq := .released }
      else { s with seq := .released }) :=
  (liveOnly_succeed _).comp (liveOnly_of_frame (fun s => by split <;> rfl) fun a d p c x s => ite_setWork rfl rfl)

/-- No instruction reads a working register that is not live. -/
theorem liveOnly_exec (i : Instr) : LiveOnlyOutcome (exec i) := by
  cases i with
  | attach vid pid ifidx =>
    exact liveOnly_present (LiveOnly.next (f := fun s => { s with seq := .identifying, phase := .openLink })
      (liveOnly_of_setWork fun _ _ _ _ _ _ => rfl))
  | release => exact liveOnly_present liveOnly_released.next
  | size | name | flags => exact liveOnly_present (liveOnly_withDesc fun d => liveOnly_succeed _)
  | frequency =>
    exact liveOnly_present (LiveOnly.next (f := fun s => succeed (.clock s.clockHz) s)
      (liveOnly_of_setWork fun _ _ _ _ _ _ => rfl))
  | status => exact liveOnly_present (liveOnly_withDesc liveOnly_statusExchange)
  | setTimeout v =>
    exact liveOnly_present (LiveOnly.next
      (f := fun s => succeed .empty { s with timeoutPolls := if v = 0 then none else some v.toNat })
      (liveOnly_of_setWork fun _ _ _ _ _ _ => rfl))
  | unlock =>
    refine liveOnly_present (liveOnly_withDesc fun d s => ?_)
    split
    · exact liveOnly_enterJob _ _ s
    · exact liveOnly_raiseError _ s
  | erase o n b e => exact liveOnly_present (liveOnly_withDesc (liveOnly_beginErase _ _ _ _))
  | read o n => exact liveOnly_present (liveOnly_withDesc (liveOnly_beginRead _ _))
  | write o data => exact liveOnly_present (liveOnly_withDesc (liveOnly_beginWrite _ _))
  | _ => exact (liveOnly_sendCommand _).next

/-! ### The step -/

theorem liveOnly_takeRequest (r : Request) : LiveOnlyOutcome (takeRequest r) := fun s => by
  simp only [takeRequest, liveView_chipOpcodes, liveView_accepting]
  split
  · exact (liveOnly_exec _).comp (liveOnly_putOnPort r) s
  · split
    · exact ((liveOnly_refuseRequest _).comp (liveOnly_putOnPort r)).next s
    · exact ((liveOnly_hold r).comp (liveOnly_putOnPort r)).next s
  · rfl

theorem liveOnly_takeFrame (w : List Byte) (n : Nat) : LiveOnlyOutcome (takeFrame w n) := fun s => by
  simp only [takeFrame, liveView_chipOpcodes, liveView_handle]
  split
  · rfl
  · split
    · exact liveOnly_exec _ s
    · exact (liveOnly_probeUnknown n).next s

theorem liveOnly_idleStep : LiveOnlyOutcome idleStep := fun s => by
  simp only [idleStep, liveView_responsePending, liveView_inbox]
  split
  · exact liveOnly_deliver.next s
  · split
    · exact (liveOnly_takeRequest _).comp liveOnly_popInbox s
    · exact (liveOnly_newBlock.comp liveOnly_popInbox).next s
    · exact (liveOnly_takeFrame _ _).comp liveOnly_popInbox s
    · exact liveOnly_chipIdles.next s

theorem liveOnly_openLink : LiveOnly openLink := liveOnly_of_setWork fun _ _ _ _ _ _ => liveView_ite rfl rfl

/-- A step reads no working register that is not live. -/
theorem liveOnly_step : LiveOnlyOutcome step := fun s => by
  simp only [step, sequencer, liveView_phase, liveView_desc]
  split
  · exact liveOnly_idleStep s
  · exact liveOnly_openLink.next s
  · exact LiveOnly.next (f := setIdentClock) (liveOnly_of_setWork fun _ _ _ _ _ _ => rfl) s
  · exact liveOnly_exec _ s
  · next d _ => exact LiveOnly.next (f := finishAttach d) (liveOnly_of_setWork fun _ _ _ _ _ _ => rfl) s
  · next e _ => exact LiveOnly.next (f := closeFailed e) (liveOnly_of_setWork fun _ _ _ _ _ _ => by cases e <;> rfl) s
  · split
    · exact liveOnly_exec _ s
    · rfl
  · split
    · exact liveOnly_exec _ s
    · rfl
  · next hp =>
    split
    · rw [jobFrame_liveView hp]; exact liveOnly_exec _ s
    · rfl
  · split
    · exact liveOnly_exec _ s
    · rfl
  · next hp =>
    split
    · rw [readFrame_liveView hp]; exact liveOnly_exec _ s
    · rfl

/-- Settles O49: the live part of what a step answers is a function of the live part of the state. -/
theorem staleWorkingRegistersUnread : Obligations.StaleWorkingRegistersUnread := by
  unfold Obligations.StaleWorkingRegistersUnread
  intro s s' h
  rw [← liveOnly_step s, h, liveOnly_step s']

end Sys2Proof.Machine
end

section
/-! The session invariant (10_state.md R31-R47) is kept by every step: what it says of each kind of state, and one lemma
per kind of step. -/

namespace Sys2Proof.Machine

/-! ### What the invariant says at a position -/

theorem params_of_inv {s : State} (hi : SessionInv s) : paramsWf s.params = true := by
  obtain ⟨hparams, -⟩ := hi
  exact hparams

theorem seqAgrees_of_inv {s : State} (hi : SessionInv s) : seqAgrees s := by
  obtain ⟨-, hq, -⟩ := hi
  exact hq

/-- While an operation is in flight no response waits for delivery. -/
theorem pending_of_inFlight {s : State} (hi : SessionInv s) (hp : s.phase ≠ .idle) : s.responsePending = false := by
  obtain ⟨-, -, -, -, -, hr, -⟩ := hi
  by_contra h
  exact hp (hr (by simpa using h)).1

theorem budget_pos {s : State} (hi : SessionInv s) (n : Nat) (h : s.timeoutPolls = some n) : 1 ≤ n := by
  obtain ⟨-, -, -, -, -, -, hb, -⟩ := hi
  exact (hb n h).1

theorem data_of_inv {s : State} (hi : SessionInv s) : dataAgrees s := by
  obtain ⟨-, -, -, -, -, -, -, -, hd⟩ := hi
  exact hd

theorem admitted_of_waitIdle {s : State} {d : Descriptor} {j : Job} (hi : SessionInv s) (hd : s.desc = some d)
    (hp : s.phase = .waitIdle j) : jobAdmitted d j s.req := by
  obtain ⟨-, -, -, -, -, -, -, hw, -⟩ := hi
  have h := hw d hd
  rw [hp] at h
  exact h

theorem position_of_job {s : State} {d : Descriptor} {j : Job} (hi : SessionInv s) (hd : s.desc = some d)
    (hp : s.phase = .writeEnable j ∨ s.phase = .mutate j ∨ s.phase = .waitDone j) :
    jobAdmitted d j s.req ∧ jobPosition d j s := by
  obtain ⟨-, -, -, -, -, -, -, hw, -⟩ := hi
  have h := hw d hd
  rcases hp with hp | hp | hp <;> rw [hp] at h <;> exact h

/-- The position of a job reads nothing but these fields. -/
theorem jobPosition_congr {s t : State} {d : Descriptor} {j : Job} (e1 : t.req = s.req) (e2 : t.addr = s.addr)
    (e3 : t.done = s.done) (h : jobPosition d j s) : jobPosition d j t := by
  cases j with
  | unlock | eraseBulk => trivial
  | eraseSectors | write => simpa only [jobPosition, e1, e2, e3] using h

theorem position_of_read {s : State} {d : Descriptor} (hi : SessionInv s) (hd : s.desc = some d)
    (hp : s.phase = .readData) :
    s.req.offset.toNat + s.req.length.toNat ≤ d.size ∧ s.acc.length < s.req.length.toNat
      ∧ s.addr = s.req.offset.toNat + s.acc.length := by
  obtain ⟨-, -, -, -, -, -, -, hw, -⟩ := hi
  have h := hw d hd
  rw [hp] at h
  exact h

/-- Before there is a descriptor. -/
theorem desc_of_identifying {s : State} (hi : SessionInv s) (hq : s.seq = .identifying) : s.desc = none := by
  obtain ⟨-, -, -, ⟨-, h, -⟩, -⟩ := hi
  exact h (.inr hq)

theorem handle_of_identifying {s : State} (hi : SessionInv s) (hq : s.seq = .identifying) (hp : s.phase ≠ .openLink) :
    s.handle = .open := by
  obtain ⟨-, -, hlink, -⟩ := hi
  exact hlink.2 (.inr ⟨hq, hp⟩)

/-- The link is not held before an `Open`. -/
theorem handle_of_unlinked {s : State} (hi : SessionInv s)
    (hq : s.seq = .unattached ∨ (s.seq = .identifying ∧ s.phase = .openLink)) : s.handle = .none := by
  obtain ⟨-, -, hlink, -⟩ := hi
  cases hh : s.handle with
  | none => rfl
  | _ =>
    rcases hlink.1 hh with h | ⟨h, h'⟩ <;> rcases hq with hq | ⟨hq, hq'⟩
    · rw [hq] at h; cases h
    · rw [hq] at h; cases h
    · rw [hq] at h; cases h
    · exact absurd hq' h'

theorem clock_of_unlinked {s : State} (hi : SessionInv s) (hq : s.seq = .unattached ∨ s.phase = .openLink) :
    s.clockHz = none := by
  obtain ⟨-, -, -, -, ⟨hc, -⟩, -⟩ := hi
  exact hc hq

theorem desc_of_unattached {s : State} (hi : SessionInv s) (hq : s.seq = .unattached) : s.desc = none := by
  obtain ⟨-, -, -, ⟨-, h, -⟩, -⟩ := hi
  exact h (.inl hq)

theorem entry_of_desc {s : State} (hi : SessionInv s) (d : Descriptor) (hd : s.desc = some d) :
    d ∈ s.params.registry := by
  obtain ⟨-, -, -, ⟨-, -, h, -⟩, -⟩ := hi
  exact h d hd

theorem response_of_pending {s : State} (hi : SessionInv s) (h : s.responsePending = true) : s.response ≠ none := by
  obtain ⟨-, -, -, -, -, hr, -⟩ := hi
  exact (hr h).2

theorem budgetSpent_false {b : Option Nat} {k n : Nat} (h : budgetSpent b k = false) (hb : b = some n) : k < n := by
  subst hb
  simpa [budgetSpent] using h

/-! ### The attached block -/

/-- What the invariant says of the link, the descriptor, the clock and the budget of a block attached to `d`. -/
structure AttachedTo (d : Descriptor) (s : State) : Prop where
  params : paramsWf s.params = true
  handle : s.handle = .open
  desc : s.desc = some d
  entry : d ∈ s.params.registry
  clock : s.clockHz = some (deviceClock s.params d)
  budget : ∀ n, s.timeoutPolls = some n → 1 ≤ n
  data : dataAgrees s

theorem attachedTo_of_inv {s : State} (hi : SessionInv s) (ha : attached s.seq = true) : ∃ d, AttachedTo d s := by
  have hb := budget_pos hi
  have hd := data_of_inv hi
  obtain ⟨hparams, -, hlink, ⟨hsome, -, hmem, -⟩, ⟨-, hclock⟩, -⟩ := hi
  obtain ⟨d, e⟩ := Option.ne_none_iff_exists'.1 (hsome ha)
  exact ⟨d, hparams, hlink.2 (.inl ha), e, hmem d e, hclock d ha e, hb, hd⟩

/-- An operation in flight with a descriptor is an operation of the attached block. -/
theorem attachedTo_of_desc {s : State} {d : Descriptor} (hi : SessionInv s) (ha : attached s.seq = true)
    (hd : s.desc = some d) : AttachedTo d s := by
  obtain ⟨d', h⟩ := attachedTo_of_inv hi ha
  cases h.desc.symm.trans hd
  exact h

/-- It reads nothing but these fields. -/
theorem AttachedTo.congr {d : Descriptor} {s t : State} (h : AttachedTo d s) (e1 : t.params = s.params)
    (e2 : t.handle = s.handle) (e3 : t.desc = s.desc) (e4 : t.clockHz = s.clockHz)
    (e5 : t.timeoutPolls = s.timeoutPolls) (e6 : t.req = s.req) (e7 : t.port = s.port) : AttachedTo d t :=
  ⟨e1 ▸ h.params, e2.trans h.handle, e3.trans h.desc, e1 ▸ h.entry, by rw [e4, e1, h.clock],
    fun n hn => h.budget n (e5.symm.trans hn), by rw [dataAgrees, e6, e7]; exact h.data⟩

theorem AttachedTo.exchanged {d : Descriptor} {s : State} (h : AttachedTo d s) (cmd : Command) :
    AttachedTo d (exchanged cmd s) := h.congr rfl rfl rfl rfl rfl rfl rfl

theorem AttachedTo.statusTaken {d : Descriptor} {s : State} (h : AttachedTo d s) (b : Byte) :
    AttachedTo d { recordStatus d b (Machine.exchanged .rdsr s) with cur := b } :=
  h.congr rfl rfl rfl rfl rfl rfl rfl

/-- The invariant of an attached block is what remains to be said of its position. -/
theorem AttachedTo.sessionInv {d : Descriptor} {s : State} (h : AttachedTo d s) (ha : attached s.seq = true)
    (hq : seqAgrees s) (hr : responseAgrees s) (hb : budgetAgrees s) (hw : workAgrees s) : SessionInv s := by
  have hphase : s.seq ≠ .unattached ∧ s.seq ≠ .identifying := by
    constructor <;> intro e <;> rw [e] at ha <;> cases ha
  obtain ⟨hun, hid⟩ := hphase
  refine ⟨h.params, hq, ⟨fun _ => .inl ha, fun _ => h.handle⟩, ⟨fun _ => by simp [h.desc], ?_, ?_, ?_⟩, ⟨?_, ?_⟩,
    hr, hb, hw, h.data⟩
  · rintro (e | e)
    · exact absurd e hun
    · exact absurd e hid
  · intro d' hd'
    cases h.desc.symm.trans hd'
    exact h.entry
  · intro d' hp
    exact absurd (seq_of_attach hq (by simp [hp])) hid
  · rintro (e | hp)
    · exact absurd e hun
    · exact absurd (seq_of_attach hq (by simp [hp])) hid
  · intro d' _ hd'
    cases h.desc.symm.trans hd'
    exact h.clock

/-- An operation that has ended, its response written. -/
theorem AttachedTo.ready {d : Descriptor} {s : State} (h : AttachedTo d s) (hq : s.seq = .ready) (hp : s.phase = .idle)
    (hr : s.response ≠ none) : SessionInv s := by
  refine h.sessionInv (by rw [hq]; rfl) ?_ (fun _ => ⟨hp, hr⟩) (fun n hn => ⟨h.budget n hn, ?_⟩) fun _ _ => ?_
  · rw [seqAgrees, hp, hq]; rfl
  · rw [hp]; trivial
  · rw [hp]; trivial

theorem AttachedTo.succeed {d : Descriptor} {s : State} (h : AttachedTo d s) (v : Value)
    (hq : seqAfterSuccess s.seq = .ready) : SessionInv (succeed v s) :=
  AttachedTo.ready (d := d) (h.congr rfl rfl rfl rfl rfl rfl rfl) hq rfl nofun

theorem AttachedTo.raiseError {d : Descriptor} {s : State} (h : AttachedTo d s) (e : ErrorRecord)
    (hq : seqAfterError s.seq = .ready) : SessionInv (raiseError e s) :=
  AttachedTo.ready (d := d) (h.congr rfl rfl rfl rfl rfl rfl rfl) hq rfl nofun

/-- A job in flight. In a WaitReady the budget is not used up, and past the first WaitReady the job has a position. -/
theorem AttachedTo.job {d : Descriptor} {j : Job} {s : State} (h : AttachedTo d s) (hq : s.seq = jobSeq j)
    (hp : s.phase = .waitIdle j ∨ s.phase = .writeEnable j ∨ s.phase = .mutate j ∨ s.phase = .waitDone j)
    (hr : s.responsePending = false)
    (hb : s.phase = .waitIdle j ∨ s.phase = .waitDone j → ∀ n, s.timeoutPolls = some n → s.polls < n)
    (hj : jobAdmitted d j s.req) (hpos : s.phase ≠ .waitIdle j → jobPosition d j s) : SessionInv s := by
  refine h.sessionInv (by rw [hq]; exact jobSeq_attached j) ?_ (fun e => by simp [hr] at e)
    (fun n hn => ⟨h.budget n hn, ?_⟩) fun d' hd' => ?_
  · rcases hp with hp | hp | hp | hp <;> rw [seqAgrees, hp] <;> exact hq
  · rcases hp with hp | hp | hp | hp
    · rw [hp]; exact hb (.inl hp) n hn
    · rw [hp]; trivial
    · rw [hp]; trivial
    · rw [hp]; exact hb (.inr hp) n hn
  · cases h.desc.symm.trans hd'
    rcases hp with hp | hp | hp | hp
    · rw [hp]; exact hj
    all_goals rw [hp]; exact ⟨hj, hpos (by simp [hp])⟩

theorem AttachedTo.waitIdle {d : Descriptor} {j : Job} {s : State} (h : AttachedTo d s) (hq : s.seq = jobSeq j)
    (hp : s.phase = .waitIdle j) (hr : s.responsePending = false) (hb : ∀ n, s.timeoutPolls = some n → s.polls < n)
    (hj : jobAdmitted d j s.req) : SessionInv s :=
  h.job hq (.inl hp) hr (fun _ => hb) hj (absurd hp)

theorem AttachedTo.waitDone {d : Descriptor} {j : Job} {s : State} (h : AttachedTo d s) (hq : s.seq = jobSeq j)
    (hp : s.phase = .waitDone j) (hr : s.responsePending = false) (hb : ∀ n, s.timeoutPolls = some n → s.polls < n)
    (hj : jobAdmitted d j s.req ∧ jobPosition d j s) : SessionInv s :=
  h.job hq (.inr (.inr (.inr hp))) hr (fun _ => hb) hj.1 fun _ => hj.2

/-- A job about to send a WREN or its mutating frame. -/
theorem AttachedTo.sends {d : Descriptor} {j : Job} {s : State} (h : AttachedTo d s) (hq : s.seq = jobSeq j)
    (hp : s.phase = .writeEnable j ∨ s.phase = .mutate j) (hr : s.responsePending = false)
    (hj : jobAdmitted d j s.req ∧ jobPosition d j s) : SessionInv s :=
  h.job hq (by tauto) hr (fun hw => by rcases hp with hp | hp <;> simp [hp] at hw) hj.1 fun _ => hj.2

/-- A READ in flight. -/
theorem AttachedTo.reads {d : Descriptor} {s : State} (h : AttachedTo d s) (hq : s.seq = .reading)
    (hp : s.phase = .readData) (hr : s.responsePending = false)
    (hj : s.req.offset.toNat + s.req.length.toNat ≤ d.size ∧ s.acc.length < s.req.length.toNat
      ∧ s.addr = s.req.offset.toNat + s.acc.length) : SessionInv s := by
  refine h.sessionInv (by rw [hq]; rfl) ?_ (fun e => by simp [hr] at e)
    (fun n hn => ⟨h.budget n hn, ?_⟩) fun d' hd' => ?_
  · rw [seqAgrees, hp]; exact hq
  · rw [hp]; trivial
  · cases h.desc.symm.trans hd'
    rw [hp]; exact hj

/-! ### The sectors of an ERASE -/

/-- The effective range of an admitted ERASE is a nonempty run of whole sectors. -/
theorem eraseRange_sectors {d : Descriptor} {r : ReqRegs} (hs : 0 < d.sectorSize)
    (hj : jobAdmitted d .eraseSectors r) :
    ∃ a b, a < b ∧ eraseRange d r = (a * d.sectorSize, b * d.sectorSize) := by
  obtain ⟨-, hn, hal⟩ := hj
  cases hb : r.bestEffort with
  | true =>
    refine ⟨r.offset.toNat / d.sectorSize, (r.offset.toNat + r.length.toNat + d.sectorSize - 1) / d.sectorSize, ?_,
      by simp [eraseRange, effectiveRange, hn, hb, floorTo, ceilTo]⟩
    calc r.offset.toNat / d.sectorSize < (r.offset.toNat + d.sectorSize) / d.sectorSize := by
          rw [Nat.add_div_right _ hs]; omega
      _ ≤ _ := Nat.div_le_div_right (by omega)
  | false =>
    obtain ⟨ho, hl⟩ : r.offset.toNat % d.sectorSize = 0 ∧ r.length.toNat % d.sectorSize = 0 := by
      rcases hal with h | h
      · rw [hb] at h; cases h
      · exact h
    obtain ⟨a, ha⟩ := Nat.dvd_of_mod_eq_zero ho
    obtain ⟨c, hc⟩ := Nat.dvd_of_mod_eq_zero hl
    have hc0 : c ≠ 0 := by rintro rfl; exact hn (by simpa using hc)
    refine ⟨a, a + c, by omega, ?_⟩
    rw [eraseRange, effectiveRange, if_neg hn, if_neg (by simp [hb]), ha, hc, ← Nat.mul_add]
    simp only [Nat.mul_comm]

/-- The first sector of an ERASE lies inside its range. -/
theorem eraseRange_first {d : Descriptor} {r : ReqRegs} (hs : 0 < d.sectorSize)
    (hj : jobAdmitted d .eraseSectors r) : (eraseRange d r).1 + d.sectorSize ≤ (eraseRange d r).2 := by
  obtain ⟨a, b, hab, e⟩ := eraseRange_sectors hs hj
  rw [e]
  calc a * d.sectorSize + d.sectorSize = (a + 1) * d.sectorSize := by ring
    _ ≤ b * d.sectorSize := Nat.mul_le_mul_right _ hab

/-- A sector that begins inside the range of an ERASE ends inside it. -/
theorem eraseRange_sector {d : Descriptor} {r : ReqRegs} {k : Nat} (hs : 0 < d.sectorSize)
    (hj : jobAdmitted d .eraseSectors r) (hk : (eraseRange d r).1 + k * d.sectorSize < (eraseRange d r).2) :
    (eraseRange d r).1 + k * d.sectorSize + d.sectorSize ≤ (eraseRange d r).2 := by
  obtain ⟨a, b, hab, e⟩ := eraseRange_sectors hs hj
  rw [e] at hk ⊢
  have hlt : a + k < b := Nat.lt_of_mul_lt_mul_right (a := d.sectorSize) (by rw [Nat.add_mul]; exact hk)
  calc a * d.sectorSize + k * d.sectorSize + d.sectorSize = (a + k + 1) * d.sectorSize := by ring
    _ ≤ b * d.sectorSize := Nat.mul_le_mul_right _ hlt

/-! ### A command of the operation in flight -/

/-- The lock decision and the start of a job. -/
theorem beginJob_inv {d : Descriptor} {j : Job} {b : Byte} {s : State} (h : AttachedTo d s) (hq : s.seq = jobSeq j)
    (hr : s.responsePending = false) (hj : jobAdmitted d j s.req) : SessionInv (beginJob d j b s) := by
  have hsucc : seqAfterSuccess s.seq = .ready := by rw [hq]; exact seqAfterSuccess_jobSeq j
  have herr : seqAfterError s.seq = .ready := by rw [hq]; exact seqAfterError_jobSeq j
  have hs : 0 < d.sectorSize := (paramsWf_geometry h.params h.entry).sector_pos
  have hnext {t : State} (ht : AttachedTo d t) (hq' : t.seq = s.seq) (hp : t.phase = .writeEnable j)
      (hr' : t.responsePending = s.responsePending) (hreq : t.req = s.req) (hpos : jobPosition d j t) : SessionInv t :=
    ht.sends (hq'.trans hq) (.inl hp) (hr'.trans hr) ⟨hreq ▸ hj, hpos⟩
  unfold beginJob
  cases j with
  | unlock =>
    simp only
    split
    · exact hnext (h.congr rfl rfl rfl rfl rfl rfl rfl) rfl rfl rfl rfl trivial
    · exact h.succeed _ hsucc
  | eraseBulk =>
    simp only
    split
    · exact h.raiseError _ herr
    · exact hnext (h.congr rfl rfl rfl rfl rfl rfl rfl) rfl rfl rfl rfl trivial
  | eraseSectors =>
    simp only
    split
    · exact h.raiseError _ herr
    · exact hnext (h.congr rfl rfl rfl rfl rfl rfl rfl) rfl rfl rfl rfl ⟨by simp, eraseRange_first hs hj⟩
  | write =>
    simp only
    split
    · exact h.raiseError _ herr
    · exact hnext (h.congr rfl rfl rfl rfl rfl rfl rfl) rfl rfl rfl rfl ⟨rfl, List.length_pos_of_ne_nil hj.2⟩

/-- The next mutating command of a job, or its end. -/
theorem advanceJob_inv {d : Descriptor} {j : Job} {b : Byte} {s : State} (h : AttachedTo d s) (hq : s.seq = jobSeq j)
    (hr : s.responsePending = false) (hj : jobAdmitted d j s.req) (hpos : jobPosition d j s) :
    SessionInv (advanceJob d j b s) := by
  have hsucc : seqAfterSuccess s.seq = .ready := by rw [hq]; exact seqAfterSuccess_jobSeq j
  have herr : seqAfterError s.seq = .ready := by rw [hq]; exact seqAfterError_jobSeq j
  have hs : 0 < d.sectorSize := (paramsWf_geometry h.params h.entry).sector_pos
  unfold advanceJob
  cases j with
  | unlock =>
    simp only
    split
    · exact h.raiseError _ herr
    · exact h.succeed _ hsucc
  | eraseBulk => exact h.succeed _ hsucc
  | eraseSectors =>
    obtain ⟨haddr, -⟩ := hpos
    have hnext : s.addr + d.sectorSize = (eraseRange d s.req).1 + (s.done + 1) * d.sectorSize := by rw [haddr]; ring
    simp only
    split
    · next hlt =>
      rw [hnext] at hlt
      refine AttachedTo.sends (d := d) (h.congr rfl rfl rfl rfl rfl rfl rfl) hq (.inl rfl) hr ⟨hj, hnext, ?_⟩
      show s.addr + d.sectorSize + d.sectorSize ≤ (eraseRange d s.req).2
      rw [hnext]
      exact eraseRange_sector hs hj hlt
    · exact AttachedTo.succeed (d := d) (h.congr rfl rfl rfl rfl rfl rfl rfl) _ hsucc
  | write =>
    obtain ⟨haddr, -⟩ := hpos
    simp only
    split
    · next hlt =>
      refine AttachedTo.sends (d := d) (h.congr rfl rfl rfl rfl rfl rfl rfl) hq (.inl rfl) hr ⟨hj, ?_, hlt⟩
      show s.addr + writeChunk d s = s.req.offset.toNat + (s.done + writeChunk d s)
      omega
    · exact AttachedTo.succeed (d := d) (h.congr rfl rfl rfl rfl rfl rfl rfl) _ hsucc

/-- The next batch of a READ, or its end. -/
theorem gathered_inv {d : Descriptor} {r : List Byte} {s : State} (h : AttachedTo d s) (hq : s.seq = .reading)
    (hp : s.phase = .readData) (hr : s.responsePending = false)
    (hj : s.req.offset.toNat + s.req.length.toNat ≤ d.size ∧ s.acc.length < s.req.length.toNat
      ∧ s.addr = s.req.offset.toNat + s.acc.length)
    (hl : r.length = batchLength s.params.maxRead s.req.length.toNat s.acc.length) : SessionInv (gathered r s) := by
  obtain ⟨hsize, -, haddr⟩ := hj
  unfold gathered
  rw [hp]
  simp only
  split
  · next hlt =>
    refine AttachedTo.reads (d := d) (h.congr rfl rfl rfl rfl rfl rfl rfl) hq rfl hr ⟨hsize, hlt, ?_⟩
    show s.addr + batchLength s.params.maxRead s.req.length.toNat s.acc.length
      = s.req.offset.toNat + (s.acc ++ r).length
    rw [List.length_append, ← hl]
    omega
  · exact AttachedTo.succeed (d := d) (h.congr rfl rfl rfl rfl rfl rfl rfl) _
      (by show seqAfterSuccess s.seq = _; rw [hq]; rfl)

/-- An ATTACH that holds the link. -/
theorem sessionInv_linked {s : State} (hparams : paramsWf s.params = true) (hq : s.seq = .identifying)
    (hp : s.phase = .identClock ∨ s.phase = .identify ∨ (∃ d ∈ s.params.registry, s.phase = .deviceClock d)
      ∨ ∃ e, s.phase = .closeLink e)
    (hh : s.handle = .open) (hd : s.desc = none) (hr : s.responsePending = false)
    (hb : ∀ n, s.timeoutPolls = some n → 1 ≤ n) (hdata : dataAgrees s) : SessionInv s := by
  have hopen : s.phase ≠ .openLink := by
    rcases hp with hp | hp | ⟨d, -, hp⟩ | ⟨e, hp⟩ <;> simp [hp]
  refine ⟨hparams, ?_, ⟨fun _ => .inr ⟨hq, hopen⟩, fun _ => hh⟩, ⟨?_, fun _ => hd, ?_, ?_⟩, ⟨?_, ?_⟩, ?_, ?_, ?_, hdata⟩
  · rcases hp with hp | hp | ⟨d, -, hp⟩ | ⟨e, hp⟩ <;> rw [seqAgrees, hp] <;> exact hq
  · rw [hq]; nofun
  · rw [hd]; nofun
  · intro d hp'
    rcases hp with hp | hp | ⟨d', hmem, hp⟩ | ⟨e, hp⟩ <;> rw [hp] at hp' <;> cases hp'
    exact hmem
  · rintro (e | e)
    · rw [hq] at e; cases e
    · exact absurd e hopen
  · rw [hd]; nofun
  · intro e; rw [hr] at e; cases e
  · intro n hn
    refine ⟨hb n hn, ?_⟩
    rcases hp with hp | hp | ⟨d, -, hp⟩ | ⟨e, hp⟩ <;> rw [hp] <;> trivial
  · intro d e; rw [hd] at e; cases e

/-- The answer to RDID, or its loss. -/
theorem identify_inv {s : State} {p : Phase} (hi : SessionInv s) (hp : s.phase = .identify)
    (hp' : (∃ d ∈ s.params.registry, p = .deviceClock d) ∨ ∃ e, p = .closeLink e) :
    SessionInv { exchanged .rdid s with phase := p } := by
  have hq : s.seq = .identifying := seq_of_attach (seqAgrees_of_inv hi) (by simp [hp])
  have hh : s.handle = .open := handle_of_identifying hi hq (by simp [hp])
  have hd : s.desc = none := desc_of_identifying hi hq
  have hr : s.responsePending = false := pending_of_inFlight hi (by simp [hp])
  have hb : ∀ n, s.timeoutPolls = some n → 1 ≤ n := budget_pos hi
  have hdata : dataAgrees s := data_of_inv hi
  exact sessionInv_linked (params_of_inv hi :) hq (.inr (.inr hp')) hh hd hr hb hdata

/-- A job in flight is an operation of the attached block. -/
theorem job_attached {s : State} {d : Descriptor} {j : Job} (hi : SessionInv s) (hd : s.desc = some d)
    (hp : s.phase = .waitIdle j ∨ s.phase = .writeEnable j ∨ s.phase = .mutate j ∨ s.phase = .waitDone j) :
    AttachedTo d s ∧ s.seq = jobSeq j ∧ s.responsePending = false := by
  have hq : s.seq = jobSeq j := seq_of_job (seqAgrees_of_inv hi) hp
  refine ⟨attachedTo_of_desc hi (by rw [hq]; exact jobSeq_attached j) hd, hq, pending_of_inFlight hi ?_⟩
  rcases hp with hp | hp | hp | hp <;> simp [hp]

theorem read_attached {s : State} {d : Descriptor} (hi : SessionInv s) (hd : s.desc = some d)
    (hp : s.phase = .readData) : AttachedTo d s ∧ s.seq = .reading ∧ s.responsePending = false := by
  have hq : s.seq = .reading := seq_of_read (seqAgrees_of_inv hi) hp
  exact ⟨attachedTo_of_desc hi (by rw [hq]; rfl) hd, hq, pending_of_inFlight hi (by simp [hp])⟩

/-- The error exit of a job. -/
theorem raiseError_job_inv {s t : State} {d : Descriptor} {j : Job} (hi : SessionInv s) (hd : s.desc = some d)
    (hp : s.phase = .waitIdle j ∨ s.phase = .writeEnable j ∨ s.phase = .mutate j ∨ s.phase = .waitDone j)
    (ht : AttachedTo d s → AttachedTo d t) (hq : t.seq = s.seq) (e : ErrorRecord) : SessionInv (raiseError e t) := by
  obtain ⟨h, hjob, -⟩ := job_attached hi hd hp
  exact (ht h).raiseError e (by rw [hq, hjob]; exact seqAfterError_jobSeq j)

/-- A command of the operation in flight keeps the invariant. -/
theorem commandLeads_inv {s t : State} (hi : SessionInv s) (h : CommandLeads s t) : SessionInv t := by
  cases h with
  | found d code hp hr => exact identify_inv hi hp (.inl ⟨d, (resolve_mem hr).1, rfl⟩)
  | unknown code hp => exact identify_inv hi hp (.inr ⟨_, rfl⟩)
  | lost hp => exact identify_inv hi hp (.inr ⟨_, rfl⟩)
  | failed j cmd hc hp hx =>
    have hjob : s.seq = jobSeq j := seq_of_job (seqAgrees_of_inv hi) (by tauto)
    obtain ⟨d, h⟩ := attachedTo_of_inv hi (by rw [hjob]; exact jobSeq_attached j)
    exact raiseError_job_inv (j := j) hi h.desc (by tauto) (fun h => h.exchanged cmd) rfl _
  | failedMutation j d hd hp hx =>
    obtain ⟨h, hq, -⟩ := job_attached hi hd (.inr (.inr (.inl hp)))
    have ht : AttachedTo d { exchanged (jobFrame d j s) s with mutated := true } :=
      h.congr rfl rfl rfl rfl rfl rfl rfl
    exact ht.raiseError _ (by show seqAfterError s.seq = _; rw [hq]; exact seqAfterError_jobSeq j)
  | failedRead d hd hp hx =>
    obtain ⟨h, hq, -⟩ := read_attached hi hd hp
    exact (h.exchanged _).raiseError _ (by rw [exchanged_seq, hq]; rfl)
  | polls j d r hd hp hr hb hn =>
    obtain ⟨h, hq, hpend⟩ := job_attached (j := j) hi hd (by tauto)
    have ht : AttachedTo d
        { recordStatus d (r.headD 0) (exchanged .rdsr s) with cur := r.headD 0, polls := s.polls + 1 } :=
      (h.statusTaken _).congr rfl rfl rfl rfl rfl rfl rfl
    have hlt : ∀ n, s.timeoutPolls = some n → s.polls + 1 < n := fun n => budgetSpent_false hn
    rcases hp with hp | hp
    · exact ht.waitIdle hq hp hpend hlt (admitted_of_waitIdle hi hd hp :)
    · exact ht.waitDone hq hp hpend hlt (position_of_job hi hd (.inr (.inr hp)) :)
  | timeout j d r hd hp hr hb hn =>
    exact raiseError_job_inv (j := j) hi hd (by tauto)
      (fun h => (h.statusTaken _).congr rfl rfl rfl rfl rfl rfl rfl) rfl _
  | begins j d r hd hp hr hb =>
    obtain ⟨h, hq, hpend⟩ := job_attached hi hd (.inl hp)
    exact beginJob_inv (h.statusTaken _) hq hpend (admitted_of_waitIdle hi hd hp)
  | advances j d r hd hp hr hb =>
    obtain ⟨h, hq, hpend⟩ := job_attached hi hd (.inr (.inr (.inr hp)))
    obtain ⟨hj, hpos⟩ := position_of_job hi hd (.inr (.inr hp))
    exact advanceJob_inv (h.statusTaken _) hq hpend hj (jobPosition_congr rfl rfl rfl hpos)
  | enables j r hp hr =>
    have hjob : s.seq = jobSeq j := seq_of_job (seqAgrees_of_inv hi) (.inr (.inl hp))
    obtain ⟨d, h⟩ := attachedTo_of_inv hi (by rw [hjob]; exact jobSeq_attached j)
    have hpend : s.responsePending = false := pending_of_inFlight hi (by simp [hp])
    obtain ⟨hj, hpos⟩ := position_of_job hi h.desc (.inl hp)
    exact AttachedTo.sends (d := d) (h.congr rfl rfl rfl rfl rfl rfl rfl) hjob (.inr rfl) hpend
      ⟨hj, jobPosition_congr rfl rfl rfl hpos⟩
  | mutates j d hd hp hx =>
    obtain ⟨h, hq, hpend⟩ := job_attached hi hd (.inr (.inr (.inl hp)))
    obtain ⟨hj, hpos⟩ := position_of_job hi hd (.inr (.inl hp))
    exact AttachedTo.waitDone (d := d) (h.congr rfl rfl rfl rfl rfl rfl rfl) hq rfl hpend
      (budget_pos hi :) ⟨hj, jobPosition_congr rfl rfl rfl hpos⟩
  | gathers d r hd hp hl =>
    obtain ⟨h, hq, hpend⟩ := read_attached hi hd hp
    exact gathered_inv (h.exchanged _) hq hp hpend (position_of_read hi hd hp) hl

/-! ### Requests -/

/-- An idle block that changes neither `seq`, the link, the descriptor nor the clock. -/
theorem sessionInv_idle {s t : State} (hi : SessionInv s) (hp : s.phase = .idle) (ht : t.phase = .idle)
    (e1 : t.params = s.params) (e2 : t.seq = s.seq) (e3 : t.handle = s.handle) (e4 : t.desc = s.desc)
    (e5 : t.clockHz = s.clockHz) (hr : t.responsePending = true → t.response ≠ none)
    (hb : ∀ n, t.timeoutPolls = some n → 1 ≤ n) (hd : dataAgrees t) : SessionInv t := by
  obtain ⟨hparams, hseq, hlink, ⟨hd1, hd2, hd3, -⟩, ⟨hc1, hc2⟩, -⟩ := hi
  refine ⟨e1 ▸ hparams, ?_, ?_, ⟨?_, ?_, ?_, ?_⟩, ⟨?_, ?_⟩, fun h => ⟨ht, hr h⟩, fun n hn => ⟨hb n hn, ?_⟩,
    fun d _ => ?_, hd⟩
  · rw [seqAgrees, hp] at hseq
    rw [seqAgrees, ht, e2]; exact hseq
  · rw [linkHeld, ht, e2, e3, ← hp]; exact hlink
  · rw [e2, e4]; exact hd1
  · rw [e2, e4]; exact hd2
  · rw [e1, e4]; exact hd3
  · rw [ht]; nofun
  · rw [ht, e2, e5, ← hp]; exact hc1
  · rw [e1, e2, e4, e5]; exact hc2
  · rw [ht]; trivial
  · rw [ht]; trivial

theorem accept_attached {d : Descriptor} {r : Request} {s : State} (h : AttachedTo d s) (hr : r.data.length < 2 ^ 32) :
    AttachedTo d (accept r s) := ⟨h.params, h.handle, h.desc, h.entry, h.clock, h.budget, hr, h.data.2⟩

/-- A block without a link, and no operation in flight. -/
theorem sessionInv_unlinked {s : State} (hparams : paramsWf s.params = true) (hp : s.phase = .idle)
    (hq : s.seq = .released ∨ (s.seq = .unattached ∧ s.desc = none ∧ s.clockHz = none)) (hh : s.handle = .none)
    (hmem : ∀ d, s.desc = some d → d ∈ s.params.registry) (hr : s.responsePending = true → s.response ≠ none)
    (hb : ∀ n, s.timeoutPolls = some n → 1 ≤ n) (hd : dataAgrees s) : SessionInv s := by
  have hdetached : attached s.seq ≠ true := by rcases hq with hq | ⟨hq, -⟩ <;> simp [hq, attached]
  have hidentifying : s.seq ≠ .identifying := by rcases hq with hq | ⟨hq, -⟩ <;> simp [hq]
  have hunattached (h : s.seq = .unattached) : s.desc = none ∧ s.clockHz = none := by
    rcases hq with hq | ⟨-, hq⟩
    · rw [hq] at h; cases h
    · exact hq
  refine ⟨hparams, ?_, ⟨fun h => ?_, ?_⟩, ⟨fun h => absurd h hdetached, ?_, hmem, ?_⟩,
    ⟨?_, fun _ h => absurd h hdetached⟩, fun h => ⟨hp, hr h⟩, fun n hn => ⟨hb n hn, ?_⟩, fun d _ => ?_, hd⟩
  · rw [seqAgrees, hp]
    rcases hq with hq | ⟨hq, -⟩ <;> rw [hq] <;> rfl
  · rw [hh] at h; cases h
  · rintro (h | ⟨h, -⟩)
    · exact absurd h hdetached
    · exact absurd h hidentifying
  · rintro (h | h)
    · exact (hunattached h).1
    · exact absurd h hidentifying
  · rw [hp]; nofun
  · rintro (h | h)
    · exact (hunattached h).2
    · rw [hp] at h; cases h
  · rw [hp]; trivial
  · rw [hp]; trivial

/-- An ATTACH that has been accepted. -/
theorem sessionInv_openLink {s : State} (hparams : paramsWf s.params = true) (hq : s.seq = .identifying)
    (hp : s.phase = .openLink) (hh : s.handle = .none) (hd : s.desc = none) (hc : s.clockHz = none)
    (hr : s.responsePending = false) (hb : ∀ n, s.timeoutPolls = some n → 1 ≤ n) (hdata : dataAgrees s) :
    SessionInv s := by
  refine ⟨hparams, ?_, ⟨fun h => ?_, ?_⟩, ⟨?_, fun _ => hd, ?_, ?_⟩, ⟨fun _ => hc, ?_⟩, fun h => ?_,
    fun n hn => ⟨hb n hn, ?_⟩, fun d h => ?_, hdata⟩
  · rw [seqAgrees, hp]; exact hq
  · rw [hh] at h; cases h
  · rintro (h | ⟨-, h⟩)
    · rw [hq] at h; cases h
    · exact absurd hp h
  · rw [hq]; nofun
  · rw [hd]; nofun
  · rw [hp]; nofun
  · rw [hd]; nofun
  · rw [hr] at h; cases h
  · rw [hp]; trivial
  · rw [hd] at h; cases h

/-- STATUS: its one exchange ends the operation. -/
theorem statusExchange_inv {d d' : Descriptor} {s : State} (h : AttachedTo d s) (hq : s.seq = .ready) :
    SessionInv (statusExchange d' s) := by
  unfold statusExchange
  split
  · refine AttachedTo.succeed (d := d) ?_ _ (by rw [recordStatus_seq, exchanged_seq, hq]; rfl)
    exact h.congr rfl rfl rfl rfl rfl rfl rfl
  · exact (h.exchanged _).raiseError _ (by rw [exchanged_seq, hq]; rfl)

theorem hold_inv {s : State} {r : Request} (hi : SessionInv s) : SessionInv (hold r s) :=
  sessionInv_congr hi rfl rfl rfl rfl rfl rfl rfl rfl rfl rfl rfl rfl rfl rfl rfl

/-- SET_TIMEOUT of 0 is no budget, and any other is at least 1. -/
theorem setTimeout_pos (v : BitVec 32) (n : Nat) (h : (if v = 0 then none else some v.toNat) = some n) : 1 ≤ n := by
  split at h
  · cases h
  · next hv =>
    cases h
    exact Nat.pos_of_ne_zero fun h0 => hv (BitVec.eq_of_toNat_eq h0)

/-- What a request leads to keeps the invariant. -/
theorem requestLeads_inv {i : Instr} {s t : State} (hi : SessionInv s) (hp : s.phase = .idle)
    (hw : (portRecord i s).data.length < 2 ^ 32) (h : RequestLeads i s t) : SessionInv t := by
  have hdata : dataAgrees (accept (portRecord i s) s) := ⟨hw, (data_of_inv hi :).2⟩
  have hb : ∀ n, s.timeoutPolls = some n → 1 ≤ n := budget_pos hi
  have hentry : ∀ d, s.desc = some d → d ∈ s.params.registry := entry_of_desc hi
  have hready (hq : s.seq = .ready) : ∃ d, AttachedTo d (accept (portRecord i s) s) := by
    obtain ⟨d, h⟩ := attachedTo_of_inv hi (by rw [hq]; rfl)
    exact ⟨d, accept_attached h hw⟩
  cases h with
  | held ha => exact hold_inv hi
  | wrongState ha => exact sessionInv_idle hi hp rfl rfl rfl rfl rfl rfl nofun hb (data_of_inv hi :)
  | attach hi' ha hq =>
    have hh : s.handle = .none := handle_of_unlinked hi (.inl hq)
    have hd : s.desc = none := desc_of_unattached hi hq
    have hc : s.clockHz = none := clock_of_unlinked hi (.inl hq)
    exact sessionInv_openLink (params_of_inv hi :) rfl rfl hh hd hc rfl hb hdata
  | releaseReady hi' ha hq =>
    exact sessionInv_unlinked (params_of_inv hi :) rfl (.inl rfl) rfl hentry nofun hb hdata
  | releaseUnattached hi' ha hq =>
    have hh : s.handle = .none := handle_of_unlinked hi (.inl hq)
    exact sessionInv_unlinked (params_of_inv hi :) rfl (.inl rfl) hh hentry nofun hb hdata
  | setTimeout v hi' ha hq =>
    refine sessionInv_idle hi hp rfl rfl ?_ rfl rfl rfl nofun (setTimeout_pos v) hdata
    show seqAfterSuccess s.seq = s.seq
    rcases hq with hq | hq <;> rw [hq] <;> rfl
  | succeeds v ha hq =>
    obtain ⟨d, h⟩ := hready hq
    exact h.succeed v (by rw [accept_seq, hq]; rfl)
  | rangeError why ha hq =>
    obtain ⟨d, h⟩ := hready hq
    exact h.raiseError _ (by rw [accept_seq, hq]; rfl)
  | unsupported ha hq =>
    obtain ⟨d, h⟩ := hready hq
    exact h.raiseError _ (by rw [accept_seq, hq]; rfl)
  | status d hi' hd ha hq =>
    obtain ⟨d', h⟩ := hready hq
    exact statusExchange_inv h hq
  | job d j hi' hd ha hq hj =>
    have h : AttachedTo d (accept (portRecord i s) s) :=
      accept_attached (attachedTo_of_desc hi (by rw [hq]; rfl) hd) hw
    exact AttachedTo.waitIdle (d := d) (h.congr rfl rfl rfl rfl rfl rfl rfl) rfl rfl rfl hb hj
  | read d o n hi' hd ha hq hr hn =>
    have h : AttachedTo d (accept (portRecord i s) s) :=
      accept_attached (attachedTo_of_desc hi (by rw [hq]; rfl) hd) hw
    subst hi'
    exact AttachedTo.reads (d := d) (h.congr rfl rfl rfl rfl rfl rfl rfl) rfl rfl rfl
      ⟨hr, Nat.pos_of_ne_zero hn, rfl⟩

/-! ### The step -/

theorem openLink_inv {s : State} (hi : SessionInv s) (hp : s.phase = .openLink) : SessionInv (openLink s) := by
  have hq : s.seq = .identifying := seq_of_attach (seqAgrees_of_inv hi) (by simp [hp])
  have hd : s.desc = none := desc_of_identifying hi hq
  have hr : s.responsePending = false := pending_of_inFlight hi (by simp [hp])
  have hh : s.handle = .none := handle_of_unlinked hi (.inr ⟨hq, hp⟩)
  have hc : s.clockHz = none := clock_of_unlinked hi (.inr hp)
  unfold openLink
  simp only
  split
  · refine sessionInv_unlinked (params_of_inv hi :) rfl (.inr ⟨?_, hd, hc⟩) hh (entry_of_desc hi :) nofun
      (budget_pos hi :) (data_of_inv hi :)
    show seqAfterError s.seq = _
    rw [hq]; rfl
  · exact sessionInv_linked (params_of_inv hi :) hq (.inl rfl) rfl hd hr (budget_pos hi :) (data_of_inv hi :)

theorem setIdentClock_inv {s : State} (hi : SessionInv s) (hp : s.phase = .identClock) :
    SessionInv (setIdentClock s) := by
  have hq : s.seq = .identifying := seq_of_attach (seqAgrees_of_inv hi) (by simp [hp])
  have hh : s.handle = .open := handle_of_identifying hi hq (by simp [hp])
  have hd : s.desc = none := desc_of_identifying hi hq
  have hr : s.responsePending = false := pending_of_inFlight hi (by simp [hp])
  exact sessionInv_linked (params_of_inv hi :) hq (.inr (.inl rfl)) hh hd hr (budget_pos hi :) (data_of_inv hi :)

theorem finishAttach_inv {s : State} {d : Descriptor} (hi : SessionInv s) (hp : s.phase = .deviceClock d) :
    SessionInv (finishAttach d s) := by
  have hq : s.seq = .identifying := seq_of_attach (seqAgrees_of_inv hi) (by simp [hp])
  have hh : s.handle = .open := handle_of_identifying hi hq (by simp [hp])
  have hb : ∀ n, s.timeoutPolls = some n → 1 ≤ n := budget_pos hi
  have hdata : dataAgrees s := data_of_inv hi
  obtain ⟨hparams, -, -, ⟨-, -, -, hentry⟩, -⟩ := hi
  have h : AttachedTo d
      { recordWire (.setClock (Machine.deviceClock s.params d)) s with
        clockHz := some (Machine.deviceClock s.params d), desc := some d, lockStatus := .unknown, lastStatus := none
        seq := .ready } := ⟨hparams, hh, rfl, hentry d hp, rfl, hb, hdata⟩
  exact h.succeed _ rfl

theorem closeFailed_inv {s : State} {e : ErrorRecord} (hi : SessionInv s) (hp : s.phase = .closeLink e) :
    SessionInv (closeFailed e s) := by
  have hq : s.seq = .identifying := seq_of_attach (seqAgrees_of_inv hi) (by simp [hp])
  have hd : s.desc = none := desc_of_identifying hi hq
  refine sessionInv_unlinked (params_of_inv hi :) rfl (.inr ⟨?_, hd, rfl⟩) rfl (entry_of_desc hi :) nofun
    (budget_pos hi :) (data_of_inv hi :)
  show seqAfterError s.seq = _
  rw [hq]; rfl

theorem deliver_inv {s : State} (hi : SessionInv s) (hp : s.phase = .idle) : SessionInv (deliver s) := by
  unfold deliver
  split <;> exact sessionInv_idle hi hp hp rfl rfl rfl rfl rfl nofun (budget_pos hi :) (data_of_inv hi :)

theorem popInbox_inv {s : State} (hi : SessionInv s) : SessionInv (popInbox s) :=
  sessionInv_congr hi rfl rfl rfl rfl rfl rfl rfl rfl rfl rfl rfl rfl rfl rfl rfl

theorem newBlock_inv {s : State} (hi : SessionInv s) : SessionInv (newBlock s) :=
  sessionInv_unlinked (params_of_inv hi :) rfl (.inr ⟨rfl, rfl, rfl⟩) rfl nofun nofun nofun
    ⟨Nat.two_pow_pos 32, (data_of_inv hi :).2⟩

/-- The caller's next record, put on the port. -/
theorem putOnPort_inv {s : State} {r : Request} (hi : SessionInv s) (hp : s.phase = .idle)
    (hw : r.data.length < 2 ^ 32) : SessionInv (putOnPort r (popInbox s)) :=
  sessionInv_idle hi hp hp rfl rfl rfl rfl rfl (response_of_pending hi :) (budget_pos hi :) ⟨(data_of_inv hi :).1, hw⟩

theorem stepLeads_inv {s t : State} (hi : SessionInv s) (h : StepLeads s t) : SessionInv t := by
  cases h with
  | deliver hp hr => exact deliver_inv hi hp
  | request r rest i t hp hr hb hd hl =>
    have hw : r.data.length < 2 ^ 32 := (decodeRequest_ok.1 hd).1
    exact requestLeads_inv (putOnPort_inv hi hp hw) hp (by rw [portRecord_of_decode hd]; exact hw) hl
  | reserved r rest hp hr hb hw ha =>
    have hi := putOnPort_inv hi hp hw
    exact sessionInv_idle hi hp rfl rfl rfl rfl rfl rfl nofun (budget_pos hi :) (data_of_inv hi :)
  | reservedHeld r rest hp hr hb hw ha =>
    exact hold_inv (putOnPort_inv hi hp hw)
  | newBlock rest hp hr hb =>
    exact newBlock_inv (popInbox_inv hi)
  | probe w n rest cmd hp hr hb hh hd =>
    exact sessionInv_congr hi rfl rfl rfl rfl rfl rfl rfl rfl rfl rfl rfl rfl rfl rfl rfl
  | probeUnknown w n rest hp hr hb hh =>
    exact sessionInv_congr hi rfl rfl rfl rfl rfl rfl rfl rfl rfl rfl rfl rfl rfl rfl rfl
  | chipIdles hp hr hb =>
    unfold chipIdles
    split
    · exact sessionInv_congr hi rfl rfl rfl rfl rfl rfl rfl rfl rfl rfl rfl rfl rfl rfl rfl
    · exact hi
  | openLink hp => exact openLink_inv hi hp
  | setIdentClock hp => exact setIdentClock_inv hi hp
  | finishAttach d hp => exact finishAttach_inv hi hp
  | closeFailed e hp => exact closeFailed_inv hi hp
  | command cmd hc => exact commandLeads_inv hi (command_leads_of_inv hi hc)

/-- Settles O51, by the cases of what a step can do. -/
theorem stepKeepsSession : Obligations.StepKeepsSession := by
  unfold Obligations.StepKeepsSession
  exact fun s t hi h => stepLeads_inv hi (step_leads h)

end Sys2Proof.Machine
end

section
/-! Rules of the whole machine on `seq` (10_state.md R32), `lock_status` (R36) and the poll budget (R39): which steps
change each. -/

namespace Sys2Proof.Machine

/-! ### What delivery, the chip's own step and `Open` leave alone -/

theorem deliver_seq (s : State) : (deliver s).seq = s.seq := by unfold deliver; split <;> rfl
theorem chipIdles_seq (s : State) : (chipIdles s).seq = s.seq := by unfold chipIdles; split <;> rfl
theorem deliver_lockStatus (s : State) : (deliver s).lockStatus = s.lockStatus := by unfold deliver; split <;> rfl
theorem chipIdles_lockStatus (s : State) : (chipIdles s).lockStatus = s.lockStatus := by
  unfold chipIdles; split <;> rfl
theorem openLink_lockStatus (s : State) : (openLink s).lockStatus = s.lockStatus := by
  unfold openLink; simp only; split <;> rfl
theorem deliver_timeoutPolls (s : State) : (deliver s).timeoutPolls = s.timeoutPolls := by
  unfold deliver; split <;> rfl
theorem chipIdles_timeoutPolls (s : State) : (chipIdles s).timeoutPolls = s.timeoutPolls := by
  unfold chipIdles; split <;> rfl
theorem openLink_timeoutPolls (s : State) : (openLink s).timeoutPolls = s.timeoutPolls := by
  unfold openLink; simp only; split <;> rfl

/-! ### The sequencer state -/

theorem jobSeq_cases (j : Job) : jobSeq j = .erasing ∨ jobSeq j = .programming := by
  cases j with
  | unlock | write => exact .inr rfl
  | eraseSectors | eraseBulk => exact .inl rfl

/-- A job that begins stays where it is or ends. -/
theorem beginJob_seq {d : Descriptor} {j : Job} {b : Byte} {s : State} (hq : s.seq = jobSeq j) :
    (beginJob d j b s).seq = s.seq ∨ (beginJob d j b s).seq = .ready := by
  have hsucc : seqAfterSuccess s.seq = .ready := by rw [hq]; exact seqAfterSuccess_jobSeq j
  have herr : seqAfterError s.seq = .ready := by rw [hq]; exact seqAfterError_jobSeq j
  cases j with
  | unlock =>
    unfold beginJob
    simp only
    split
    · exact .inl rfl
    · exact .inr hsucc
  | eraseBulk | eraseSectors | write =>
    unfold beginJob
    simp only
    split
    · exact .inr herr
    · exact .inl rfl

/-- A job that advances stays where it is or ends. -/
theorem advanceJob_seq {d : Descriptor} {j : Job} {b : Byte} {s : State} (hq : s.seq = jobSeq j) :
    (advanceJob d j b s).seq = s.seq ∨ (advanceJob d j b s).seq = .ready := by
  have hsucc : seqAfterSuccess s.seq = .ready := by rw [hq]; exact seqAfterSuccess_jobSeq j
  have herr : seqAfterError s.seq = .ready := by rw [hq]; exact seqAfterError_jobSeq j
  unfold advanceJob
  cases j with
  | unlock =>
    simp only
    split
    · exact .inr herr
    · exact .inr hsucc
  | eraseBulk => exact .inr hsucc
  | eraseSectors | write =>
    simp only
    split
    · exact .inl rfl
    · exact .inr hsucc

theorem gathered_seq {r : List Byte} {s : State} (hq : s.seq = .reading) :
    (gathered r s).seq = s.seq ∨ (gathered r s).seq = .ready := by
  have hsucc : seqAfterSuccess s.seq = .ready := by rw [hq]; rfl
  unfold gathered
  split
  · simp only
    split
    · exact .inl rfl
    · exact .inr hsucc
  all_goals exact .inl rfl

/-- A command of the operation in flight leaves `seq` alone or ends a storage operation. -/
theorem commandLeads_seq {s t : State} (hi : SessionInv s) (h : CommandLeads s t) :
    t.seq = s.seq ∨ (t.seq = .ready ∧ (s.seq = .reading ∨ s.seq = .erasing ∨ s.seq = .programming)) := by
  have hjob {j : Job} (hp : s.phase = .waitIdle j ∨ s.phase = .writeEnable j ∨ s.phase = .mutate j
      ∨ s.phase = .waitDone j) (ht : s.seq = jobSeq j → t.seq = s.seq ∨ t.seq = .ready) :
      t.seq = s.seq ∨ (t.seq = .ready ∧ (s.seq = .reading ∨ s.seq = .erasing ∨ s.seq = .programming)) := by
    have hq : s.seq = jobSeq j := seq_of_job (seqAgrees_of_inv hi) hp
    exact (ht hq).imp_right fun ht => ⟨ht, .inr (by rw [hq]; exact jobSeq_cases j)⟩
  have herr {j : Job} (hq : s.seq = jobSeq j) : seqAfterError s.seq = .ready := by
    rw [hq]; exact seqAfterError_jobSeq j
  cases h with
  | found d code hp hr => exact .inl rfl
  | unknown code hp => exact .inl rfl
  | lost hp => exact .inl rfl
  | failed j cmd hc hp hx => exact hjob (j := j) (by tauto) fun hq => .inr (herr hq)
  | failedMutation j d hd hp hx => exact hjob (j := j) (by tauto) fun hq => .inr (herr hq)
  | failedRead d hd hp hx =>
    have hq : s.seq = .reading := seq_of_read (seqAgrees_of_inv hi) hp
    exact .inr ⟨by rw [raiseError_seq, exchanged_seq, hq]; rfl, .inl hq⟩
  | polls j d r hd hp hr hb hn => exact .inl rfl
  | timeout j d r hd hp hr hb hn => exact hjob (j := j) (by tauto) fun hq => .inr (herr hq)
  | begins j d r hd hp hr hb => exact hjob (.inl hp) fun hq => beginJob_seq hq
  | advances j d r hd hp hr hb => exact hjob (.inr (.inr (.inr hp))) fun hq => advanceJob_seq hq
  | enables j r hp hr => exact .inl rfl
  | mutates j d hd hp hx => exact .inl rfl
  | gathers d r hd hp hl =>
    have hq : s.seq = .reading := seq_of_read (seqAgrees_of_inv hi) hp
    exact (gathered_seq (s := exchanged (readFrame s) s) hq).imp_right fun ht => ⟨ht, .inl hq⟩

/-- STATUS leaves a ready block ready. -/
theorem statusExchange_seq {d : Descriptor} {s : State} (hq : s.seq = .ready) : (statusExchange d s).seq = .ready := by
  unfold statusExchange
  split
  · rw [succeed_seq, recordStatus_seq, exchanged_seq, hq]; rfl
  · rw [raiseError_seq, exchanged_seq, hq]; rfl

/-- The moves of 10_state.md R32 that a request makes. -/
theorem requestLeads_seq {i : Instr} {s t : State} (h : RequestLeads i s t) :
    t.seq = s.seq ∨ (s.seq, t.seq) ∈ [(Seq.unattached, Seq.identifying), (.unattached, .released), (.ready, .released),
      (.ready, .erasing), (.ready, .programming), (.ready, .reading)] := by
  cases h with
  | held ha => exact .inl rfl
  | wrongState ha => exact .inl rfl
  | attach hi ha hq => exact .inr (by simp [hq])
  | releaseReady hi ha hq => exact .inr (by simp [hq, seqAfterSuccess])
  | releaseUnattached hi ha hq => exact .inr (by simp [hq, seqAfterSuccess])
  | setTimeout v hi ha hq => exact .inl (by rcases hq with hq | hq <;> simp [hq, seqAfterSuccess])
  | succeeds v ha hq => exact .inl (by simp [hq, seqAfterSuccess])
  | rangeError why ha hq => exact .inl (by simp [hq, seqAfterError])
  | unsupported ha hq => exact .inl (by simp [hq, seqAfterError])
  | status d hi hd ha hq => exact .inl ((statusExchange_seq (s := accept _ s) hq).trans hq.symm)
  | job d j hi hd ha hq hj => exact .inr (by rcases jobSeq_cases j with e | e <;> simp [hq, e])
  | read d o n hi hd ha hq hr hn => exact .inr (by simp [hq])

/-- `Open` keeps an ATTACH in flight or ends it. -/
theorem openLink_seq {s : State} (hq : s.seq = .identifying) :
    (openLink s).seq = s.seq ∨ (openLink s).seq = .unattached := by
  unfold openLink
  simp only
  split
  · exact .inr (by rw [raiseError_seq, recordWire_seq, spend_seq, hq]; rfl)
  · exact .inl rfl

/-- Settles O45, by the cases of what a step can do. -/
theorem sequencerTransitionsLegal : Obligations.SequencerTransitionsLegal := by
  unfold Obligations.SequencerTransitionsLegal
  intro s t hi h
  cases step_leads h with
  | deliver hp hr => exact .inl (deliver_seq s)
  | request r rest i t hp hr hb hd hl =>
    exact (requestLeads_seq hl).imp_right fun hmove => .inl (List.subset_def.1 (by decide) hmove)
  | reserved r rest hp hr hb hw ha => exact .inl rfl
  | reservedHeld r rest hp hr hb hw ha => exact .inl rfl
  | newBlock rest hp hr hb => exact .inr (.inr ⟨rfl, hp, by rw [hb]; rfl⟩)
  | probe w n rest cmd hp hr hb hh hd => exact .inl rfl
  | probeUnknown w n rest hp hr hb hh => exact .inl rfl
  | chipIdles hp hr hb => exact .inl (chipIdles_seq s)
  | openLink hp =>
    have hq : s.seq = .identifying := seq_of_attach (seqAgrees_of_inv hi) (by simp [hp])
    exact (openLink_seq hq).imp_right fun ht => .inl (by simp [hq, ht])
  | setIdentClock hp => exact .inl rfl
  | finishAttach d hp =>
    have hq : s.seq = .identifying := seq_of_attach (seqAgrees_of_inv hi) (by simp [hp])
    exact .inr (.inl (by simp [hq, finishAttach, seqAfterSuccess]))
  | closeFailed e hp =>
    have hq : s.seq = .identifying := seq_of_attach (seqAgrees_of_inv hi) (by simp [hp])
    exact .inr (.inl (by simp [hq, closeFailed, seqAfterError]))
  | command cmd hc =>
    rcases commandLeads_seq hi (command_leads_of_inv hi hc) with ht | ⟨ht, hq | hq | hq⟩
    · exact .inl ht
    all_goals exact .inr (.inl (by simp [hq, ht]))

/-! ### `lock_status` -/

theorem gathered_lockStatus (r : List Byte) (s : State) : (gathered r s).lockStatus = s.lockStatus := by
  unfold gathered
  split
  · simp only; split <;> rfl
  all_goals rfl

/-- A status read that was answered is the newest event on the wire. -/
theorem exchanged_rdsr_wire {s : State} {r : List Byte} (hr : exchangeResult (nextChoice s) .rdsr s = some r) :
    (exchanged .rdsr s).wire = .xfer .rdsr (encodeFrame (opcodesOf s) .rdsr) 1 (some r) :: s.wire := by
  rw [exchanged_wire, hr]
  rfl

/-- A command of the operation in flight changes `lock_status` only by a status byte it has read. -/
theorem commandLeads_lockStatus {s t : State} (h : CommandLeads s t) :
    t.lockStatus = s.lockStatus ∨ ∃ w r, t.wire = .xfer .rdsr w 1 (some r) :: s.wire := by
  cases h with
  | polls j d r hd hp hr hb hn => exact .inr ⟨_, r, exchanged_rdsr_wire hr⟩
  | timeout j d r hd hp hr hb hn => exact .inr ⟨_, r, exchanged_rdsr_wire hr⟩
  | begins j d r hd hp hr hb =>
    exact .inr ⟨_, r, (beginJob_sameLink d j _ _).wire.trans (exchanged_rdsr_wire hr)⟩
  | advances j d r hd hp hr hb =>
    exact .inr ⟨_, r, (advanceJob_sameLink d j _ _).wire.trans (exchanged_rdsr_wire hr)⟩
  | gathers d r hd hp hl => exact .inl (gathered_lockStatus r _)
  | _ => exact .inl rfl

/-- So does a request. -/
theorem requestLeads_lockStatus {i : Instr} {s t : State} (h : RequestLeads i s t) :
    t.lockStatus = s.lockStatus ∨ ∃ w r, t.wire = .xfer .rdsr w 1 (some r) :: s.wire := by
  cases h with
  | status d hi hd ha hq =>
    unfold statusExchange
    split
    · next r hr => exact .inr ⟨_, r, exchanged_rdsr_wire hr⟩
    · exact .inl rfl
  | _ => exact .inl rfl

/-- Settles O46, by the cases of what a step can do. -/
theorem onlyStatusReadsWriteLock : Obligations.OnlyStatusReadsWriteLock := by
  unfold Obligations.OnlyStatusReadsWriteLock
  intro s t h hne
  cases step_leads h with
  | deliver hp hr => exact absurd (deliver_lockStatus s) hne
  | request r rest i t hp hr hb hd hl => exact .inl ((requestLeads_lockStatus hl).resolve_left hne)
  | newBlock rest hp hr hb => exact .inr (.inr ⟨hp, by rw [hb]; rfl⟩)
  | chipIdles hp hr hb => exact absurd (chipIdles_lockStatus s) hne
  | openLink hp => exact absurd (openLink_lockStatus s) hne
  | finishAttach d hp => exact .inr (.inl ⟨d, hp⟩)
  | command cmd hc =>
    cases hh : s.handle with
    | none => rw [sendCommand_direct hh] at hne; exact absurd rfl hne
    | _ => exact .inl ((commandLeads_lockStatus (command_leads hh hc)).resolve_left hne)
  | _ => exact absurd rfl hne

/-! ### The poll budget -/

theorem sendCommand_timeoutPolls (cmd : Command) (s : State) : (sendCommand cmd s).timeoutPolls = s.timeoutPolls := by
  rcases sendCommand_cases cmd s with ⟨-, e⟩ | ⟨-, -, e⟩ | ⟨-, -, e⟩
  · rw [e]; rfl
  · rw [e, (resume_sameLink _ _ _).timeoutPolls]; rfl
  · rw [e, (abandon_sameLink _).timeoutPolls]; rfl

theorem statusExchange_timeoutPolls (d : Descriptor) (s : State) :
    (statusExchange d s).timeoutPolls = s.timeoutPolls := by
  unfold statusExchange; split <;> rfl

/-- A request that changes the poll budget is an accepted SET_TIMEOUT. -/
theorem requestLeads_timeoutPolls {i : Instr} {s t : State} (h : RequestLeads i s t) :
    t.timeoutPolls = s.timeoutPolls ∨ ((∃ v, i = .setTimeout v) ∧ (s.seq = .unattached ∨ s.seq = .ready)) := by
  cases h with
  | setTimeout v hi ha hq => exact .inr ⟨⟨v, hi⟩, hq⟩
  | status d hi hd ha hq => exact .inl (statusExchange_timeoutPolls d _)
  | _ => exact .inl rfl

/-- SET_TIMEOUT has op code 0x7 (30_encoding.md R101). -/
theorem op_of_setTimeout {r : Request} {v : BitVec 32} (h : decodeRequest r = .ok (.setTimeout v)) : r.op = 0x7 :=
  (congrArg Request.op (recordOn_of_decode h)).symm

/-- Settles O47, by the cases of what a step can do. -/
theorem onlySetTimeoutWritesBudget : Obligations.OnlySetTimeoutWritesBudget := by
  unfold Obligations.OnlySetTimeoutWritesBudget
  intro s t h hne
  cases step_leads h with
  | deliver hp hr => exact absurd (deliver_timeoutPolls s) hne
  | request r rest i t hp hr hb hd hl =>
    obtain ⟨⟨v, rfl⟩, hq⟩ := (requestLeads_timeoutPolls hl).resolve_left hne
    exact ⟨hp, .inl ⟨r, by rw [hb]; rfl, op_of_setTimeout hd, hq⟩⟩
  | newBlock rest hp hr hb => exact ⟨hp, .inr (by rw [hb]; rfl)⟩
  | chipIdles hp hr hb => exact absurd (chipIdles_timeoutPolls s) hne
  | openLink hp => exact absurd (openLink_timeoutPolls s) hne
  | command cmd hc => exact absurd (sendCommand_timeoutPolls cmd s) hne
  | _ => exact absurd rfl hne

/-! ### A step answers -/

/-- A record within its bounds that is no request has a reserved op code. -/
theorem decodeRequest_error {r : Request} {e : DecodeError} (hw : r.data.length < 2 ^ 32)
    (h : decodeRequest r = .error e) : ∃ op, e = .reservedOp op := by
  have hfits : requestFits r = true := decide_eq_true hw
  rw [decodeRequest, if_pos hfits] at h
  unfold decodeOp at h
  split at h
  case h_13 => cases h; exact ⟨_, rfl⟩
  all_goals cases h

/-- A request is answered, held or begun in every state whose ready block has its descriptor. -/
theorem exec_request_answers {i : Instr} {s : State} (hi : acceptedIn i ≠ none)
    (hd : s.seq = .ready → s.desc ≠ none) : ∃ t, exec i s = .next t := by
  obtain ⟨states, hs⟩ := Option.ne_none_iff_exists'.1 hi
  obtain ⟨begin, hb⟩ := exec_presents hs
  cases ha : accepting s with
  | false => exact ⟨_, (hb s).trans (present_held ha)⟩
  | true =>
    by_cases hq : s.seq ∈ states
    · obtain ⟨t, ht, -⟩ := exec_latches hs ha hq hd
      exact ⟨t, ht⟩
    · exact ⟨_, (hb s).trans (present_wrongState ha (decide_eq_false hq))⟩

theorem takeRequest_answers {r : Request} {s : State} (hw : r.data.length < 2 ^ 32)
    (hd : s.seq = .ready → s.desc ≠ none) : ∃ t, takeRequest r s = .next t := by
  have hdecode : decode (chipOpcodes s) (.request r) = decodeRequest r := rfl
  unfold takeRequest
  rw [hdecode]
  cases h : decodeRequest r with
  | ok i => exact exec_request_answers (s := putOnPort r s) (decodeRequest_isRequest h) hd
  | error e =>
    obtain ⟨op, rfl⟩ := decodeRequest_error hw h
    simp only
    split
    · exact ⟨_, rfl⟩
    · exact ⟨_, rfl⟩

theorem takeFrame_answers {w : List Byte} {n : Nat} {s : State} (hh : s.handle = .none) :
    ∃ t, takeFrame w n s = .next t := by
  unfold takeFrame decode
  rw [hh]
  simp only
  cases decodeFrame (chipOpcodes s) w n with
  | ok cmd => exact ⟨_, exec_commandInstr cmd s⟩
  | error e => exact ⟨_, rfl⟩

theorem idleStep_answers {s : State} (hd : s.seq = .ready → s.desc ≠ none)
    (hf : s.handle = .open → ∀ w n, s.inbox.head? ≠ some (.frame w n))
    (hw : ∀ r, s.inbox.head? = some (.request r) → r.data.length < 2 ^ 32) : ∃ t, idleStep s = .next t := by
  unfold idleStep
  split
  · exact ⟨_, rfl⟩
  · split
    · next r rest hb => exact takeRequest_answers (hw r (by rw [hb]; rfl)) hd
    · exact ⟨_, rfl⟩
    · next w n rest hb =>
      refine takeFrame_answers (s := popInbox s) ?_
      cases hh : s.handle with
      | none => exact hh
      | _ => exact absurd (by rw [hb]; rfl) (hf hh w n)
    · exact ⟨_, rfl⟩

/-- An operation past ATTACH has its descriptor. -/
theorem desc_of_attached {s : State} (hi : SessionInv s) (ha : attached s.seq = true) : ∃ d, s.desc = some d := by
  obtain ⟨d, h⟩ := attachedTo_of_inv hi ha
  exact ⟨d, h.desc⟩

theorem desc_of_job {s : State} {j : Job} (hi : SessionInv s)
    (hp : s.phase = .waitIdle j ∨ s.phase = .writeEnable j ∨ s.phase = .mutate j ∨ s.phase = .waitDone j) :
    ∃ d, s.desc = some d :=
  desc_of_attached hi (by rw [seq_of_job (seqAgrees_of_inv hi) hp]; exact jobSeq_attached j)

/-- Settles O52: no operation in flight lacks its descriptor, and no input but the two excluded is refused. -/
theorem stepAlwaysAnswers : Obligations.StepAlwaysAnswers := by
  unfold Obligations.StepAlwaysAnswers
  intro s hi hf hw
  have hcommand {cmd : Command} (hc : commandInFlight s = some cmd) : ∃ t, step s = .next t := ⟨_, step_command hc⟩
  cases hp : s.phase with
  | idle =>
    rw [step_of_idle hp]
    exact idleStep_answers (fun hq => by obtain ⟨d, e⟩ := desc_of_attached hi (by rw [hq]; rfl); simp [e]) hf hw
  | openLink | identClock | deviceClock d | closeLink e =>
    unfold step sequencer
    rw [hp]
    exact ⟨_, rfl⟩
  | identify => exact hcommand (cmd := .rdid) (by simp [commandInFlight, hp])
  | waitIdle j =>
    obtain ⟨d, hd⟩ := desc_of_job hi (.inl hp)
    exact hcommand (cmd := .rdsr) (by simp [commandInFlight, hp, hd])
  | writeEnable j =>
    obtain ⟨d, hd⟩ := desc_of_job hi (.inr (.inl hp))
    exact hcommand (cmd := .wren) (by simp [commandInFlight, hp, hd])
  | mutate j =>
    obtain ⟨d, hd⟩ := desc_of_job hi (.inr (.inr (.inl hp)))
    exact hcommand (cmd := jobFrame d j s) (by simp [commandInFlight, hp, hd])
  | waitDone j =>
    obtain ⟨d, hd⟩ := desc_of_job hi (.inr (.inr (.inr hp)))
    exact hcommand (cmd := .rdsr) (by simp [commandInFlight, hp, hd])
  | readData =>
    obtain ⟨d, hd⟩ := desc_of_attached hi (by rw [seq_of_read (seqAgrees_of_inv hi) hp]; rfl)
    exact hcommand (cmd := readFrame s) (by simp [commandInFlight, hp, hd])

/-! ### What a step runs, and reset -/

/-- Settles O5: delivery comes first, then the next record. -/
theorem stepRunsRequestOnPort : Obligations.StepRunsRequestOnPort := by
  unfold Obligations.StepRunsRequestOnPort
  refine ⟨fun s r rest i hp hr hb hd => step_decoded hp hr hb hd, fun s resp hp hr hs => ?_⟩
  rw [step_deliver hp hr, deliver, hs]

/-- The command in flight is run as an instruction. -/
theorem step_exec_command {s : State} {cmd : Command} (h : commandInFlight s = some cmd) :
    step s = exec (commandInstr cmd) s :=
  (step_command h).trans (exec_commandInstr cmd s).symm

/-- Settles O7: each position names its command. -/
theorem stepRunsCommandInFlight : Obligations.StepRunsCommandInFlight := by
  unfold Obligations.StepRunsCommandInFlight
  refine ⟨fun s hp => step_exec_command (cmd := .rdid) (by simp [commandInFlight, hp]),
    fun s d j hd => ⟨?_, ?_, ?_, ?_⟩⟩
  · rintro (hp | hp) <;> exact step_exec_command (cmd := .rdsr) (by simp [commandInFlight, hp, hd])
  · exact fun hp => step_exec_command (cmd := .wren) (by simp [commandInFlight, hp, hd])
  · exact fun hp => step_exec_command (by simp [commandInFlight, hp, hd])
  · exact fun hp => step_exec_command (by simp [commandInFlight, hp, hd])

/-- Settles O50: reset is an unattached block with nothing on the wire. -/
theorem invariantsAtReset : Obligations.InvariantsAtReset := by
  unfold Obligations.InvariantsAtReset
  have hsession : SessionInv State.reset :=
    sessionInv_unlinked builtParams_wf rfl (.inr ⟨rfl, rfl, rfl⟩) rfl nofun nofun nofun
      ⟨Nat.two_pow_pos 32, Nat.two_pow_pos 32⟩
  exact ⟨hsession, chipDrawn_wf _ _, ⟨rfl, rfl⟩, nofun⟩

/-- Settles O59. -/
theorem resetValues : Obligations.ResetValues := by
  unfold Obligations.ResetValues
  exact ⟨rfl, rfl, rfl, rfl, rfl, rfl, rfl, rfl, rfl, rfl⟩

end Sys2Proof.Machine
end

section
/-! The chip's array (20_memory.md R70): every step keeps it canonical; and the address field of a frame (R74). -/

namespace Sys2Proof.Machine

/-! ### The address field -/

/-- Settles O4: a field of a bit vector is a quotient of its value. -/
theorem addressFieldMsbFirst : Obligations.AddressFieldMsbFirst := by
  unfold Obligations.AddressFieldMsbFirst
  intro a
  simp only [addr3, BitVec.extractLsb', Nat.shiftRight_eq_div_pow, Nat.reducePow, Nat.div_one]

/-! ### The array stays canonical -/

theorem sendCommand_chipWf {cmd : Command} {s : State} (h : chipWf s.chip) : chipWf (sendCommand cmd s).chip := by
  cases hh : s.handle with
  | none => rw [sendCommand_direct hh]; exact chipReceives_wf (chipSettle_wf h)
  | _ => rw [sendCommand_chip_open hh]; exact exchangeChip_wf h

theorem statusExchange_chip (d : Descriptor) (s : State) :
    (statusExchange d s).chip = exchangeChip (nextChoice s) .rdsr s := by
  unfold statusExchange
  split <;> rfl

/-- Of the requests only STATUS reaches the chip in the step that accepts it. -/
theorem requestLeads_chipWf {i : Instr} {s t : State} (h : chipWf s.chip) (hl : RequestLeads i s t) :
    chipWf t.chip := by
  cases hl with
  | status d hi hd ha hq => rw [statusExchange_chip]; exact exchangeChip_wf h
  | _ => exact h

theorem deliver_chip (s : State) : (deliver s).chip = s.chip := by unfold deliver; split <;> rfl

theorem chipIdles_chipWf {s : State} (h : chipWf s.chip) : chipWf (chipIdles s).chip := by
  unfold chipIdles
  split
  · exact chipSettle_wf h
  · exact h

/-- The chip found at an `Open` holds the array it held, or one wholly drawn. -/
theorem openLink_chipWf {s : State} (h : chipWf s.chip) : chipWf (openLink s).chip := by
  unfold openLink
  simp only
  split
  · exact h
  · simp only
    split
    · exact h
    · exact chipDrawn_wf _ _

theorem stepLeads_chipWf {s t : State} (h : chipWf s.chip) (hl : StepLeads s t) : chipWf t.chip := by
  cases hl with
  | deliver hp hr => rw [deliver_chip]; exact h
  | request r rest i t hp hr hb hd hl => exact requestLeads_chipWf (s := putOnPort r (popInbox s)) h hl
  | probe w n rest cmd hp hr hb hh hd => exact chipReceives_wf (chipSettle_wf h)
  | probeUnknown w n rest hp hr hb hh => exact chipUnspecified_wf _ _
  | chipIdles hp hr hb => exact chipIdles_chipWf h
  | openLink hp => exact openLink_chipWf h
  | command cmd hc => exact sendCommand_chipWf h
  | _ => exact h

/-- Settles O53, by the cases of what a step can do. -/
theorem stepKeepsMemoryCanonical : Obligations.StepKeepsMemoryCanonical := by
  unfold Obligations.StepKeepsMemoryCanonical
  exact fun s t hm h => stepLeads_chipWf hm (step_leads h)

end Sys2Proof.Machine
end

section
/-! The range check of READ, WRITE and ERASE (20_memory.md R73), which comes before any transport primitive. -/

namespace Sys2Proof.Machine

/-- What R73 asks of the step from `s` to `t` that checks the range `[o, o + n)` on device `d`. -/
structure RangeChecked (d : Descriptor) (o n : Nat) (s t : State) : Prop where
  wire : t.wire = s.wire
  chip : t.chip = s.chip
  bounds : t.response = some (.err (.rangeError .bounds)) ↔ ¬ o + n ≤ d.size
  nothing : n = 0 → o = d.size → d.size % d.sectorSize = 0 → t.seq = .ready ∧ ∃ v, t.response = some (.ok v)

/-- A range that fails the check. -/
theorem rangeChecked_outside {d : Descriptor} {o n : Nat} (s : State) (h : ¬ inRange d.size o n = true) :
    RangeChecked d o n s (raiseError (.rangeError .bounds) s) := by
  rw [inRange_iff] at h
  exact ⟨rfl, rfl, iff_of_true rfl h, fun hn ho => absurd (by omega) h⟩

/-- A range that passes, answered with success at once. -/
theorem rangeChecked_succeed {d : Descriptor} {o n : Nat} {s : State} (h : inRange d.size o n = true)
    (hq : s.seq = .ready) (v : Value) : RangeChecked d o n s (succeed v s) :=
  ⟨rfl, rfl, iff_of_false (by simp) (not_not.2 (inRange_iff.1 h)), fun _ _ _ => ⟨by simp [hq, seqAfterSuccess], v, rfl⟩⟩

/-- A range that passes, its request neither answered `Bounds` nor one of no byte at the aligned end. -/
theorem rangeChecked_passes {d : Descriptor} {o n : Nat} {s t : State} (h : inRange d.size o n = true)
    (hw : t.wire = s.wire) (hc : t.chip = s.chip) (hr : t.response ≠ some (.err (.rangeError .bounds)))
    (hz : n = 0 → o = d.size → d.size % d.sectorSize ≠ 0) : RangeChecked d o n s t :=
  ⟨hw, hc, iff_of_false hr (not_not.2 (inRange_iff.1 h)), fun hn ho hs => absurd hs (hz hn ho)⟩

theorem beginErase_rangeChecked {o n : Nat} {bulk bestEffort : Bool} {d : Descriptor} {s : State} (hq : s.seq = .ready)
    (hr : s.response = none) : RangeChecked d o n s (beginErase o n bulk bestEffort d s) := by
  have hjob (j : Job) : (enterJob .erasing j s).response ≠ some (.err (.rangeError .bounds)) := by
    rw [enterJob_response, hr]; nofun
  unfold beginErase
  split
  · next hin =>
    split
    · split
      · exact rangeChecked_succeed hin hq _
      · next hne =>
        have hn : n ≠ 0 := fun hn => hne (by rw [hn, effectiveRange_eq_of_zero])
        split
        · exact rangeChecked_passes hin rfl rfl (hjob _) (absurd · hn)
        · exact rangeChecked_passes hin rfl rfl (hjob _) (absurd · hn)
    · next hal =>
      refine rangeChecked_passes hin rfl rfl (by simp) fun hn ho hs => hal ?_
      rw [Bool.or_eq_true, sectorAligned_iff, hn, ho]
      exact .inr ⟨hs, Nat.zero_mod _⟩
  · next hout => exact rangeChecked_outside s hout

/-- The check of a request that ends at once where there is no byte and goes on to `t` where there is one. -/
theorem rangeChecked_guarded {d : Descriptor} {o n : Nat} {s t : State} {v : Value} (hq : s.seq = .ready)
    (hw : t.wire = s.wire) (hc : t.chip = s.chip) (hr : t.response ≠ some (.err (.rangeError .bounds))) :
    RangeChecked d o n s
      (if inRange d.size o n then if n = 0 then succeed v s else t else raiseError (.rangeError .bounds) s) := by
  split
  · next hin =>
    split
    · exact rangeChecked_succeed hin hq v
    · next hn => exact rangeChecked_passes hin hw hc hr (absurd · hn)
  · next hout => exact rangeChecked_outside s hout

theorem beginRead_rangeChecked {o n : Nat} {d : Descriptor} {s : State} (hq : s.seq = .ready)
    (hr : s.response = none) : RangeChecked d o n s (beginRead o n d s) :=
  rangeChecked_guarded hq rfl rfl (by simp [hr])

theorem beginWrite_rangeChecked {o n : Nat} {d : Descriptor} {s : State} (hq : s.seq = .ready)
    (hr : s.response = none) : RangeChecked d o n s (beginWrite o n d s) :=
  rangeChecked_guarded hq rfl rfl (by simp [hr])

/-- Settles O21: the three requests make the same check first. -/
theorem boundsErrorExactlyOutOfRange : Obligations.BoundsErrorExactlyOutOfRange := by
  unfold Obligations.BoundsErrorExactlyOutOfRange
  intro s d i o n h hi
  have hq : s.seq = .ready := h.1
  suffices hchecked : ∃ t, exec i s = .next t ∧ RangeChecked d o n s t by
    obtain ⟨t, ht, hw, hc, hb, hz⟩ := hchecked
    exact ⟨t, ht, hw, hc, hb, hz⟩
  have hlatched {r : Request} {t : State} (ht : RangeChecked d o n (accept r s) t) : RangeChecked d o n s t :=
    ⟨ht.wire, ht.chip, ht.bounds, ht.nothing⟩
  rcases hi with ⟨o', n', b, e, rfl, rfl, rfl⟩ | ⟨o', n', rfl, rfl, rfl⟩ | ⟨o', data, rfl, rfl, rfl⟩
  · exact ⟨_, exec_erase_ready h, hlatched (beginErase_rangeChecked hq rfl)⟩
  · exact ⟨_, exec_read_ready h, hlatched (beginRead_rangeChecked hq rfl)⟩
  · exact ⟨_, exec_write_ready h, hlatched (beginWrite_rangeChecked hq rfl)⟩

end Sys2Proof.Machine
end

section
/-! Every step keeps every exchange on the wire legal (20_memory.md R78, R79, 30_encoding.md R107, R111): the session
invariant bounds the operands of the frame in flight, and a step makes at most one exchange. -/

namespace Sys2Proof.Machine

/-! ### The frame of the operation in flight -/

/-- The effective range of an admitted ERASE ends inside the array (43_session_storage.md R223). -/
theorem eraseRange_le_size {d : Descriptor} {r : ReqRegs} {m : Nat} (hg : Geometry m d)
    (hj : jobAdmitted d .eraseSectors r) : (eraseRange d r).2 ≤ d.size := by
  obtain ⟨hin, hn, -⟩ := hj
  unfold eraseRange effectiveRange
  rw [if_neg hn]
  split
  · calc ceilTo (r.offset.toNat + r.length.toNat) d.sectorSize
      _ ≤ (d.size + d.sectorSize - 1) / d.sectorSize * d.sectorSize :=
          Nat.mul_le_mul_right _ (Nat.div_le_div_right (by omega))
      _ = d.size := by
          obtain ⟨k, hk⟩ := Nat.dvd_of_mod_eq_zero hg.sectors
          have hs := hg.sector_pos
          rw [hk, Nat.add_sub_assoc hs, Nat.mul_add_div hs, Nat.div_eq_of_lt (by omega), Nat.add_zero, Nat.mul_comm]
  · exact hin

theorem addrField_toNat_of_lt {d : Descriptor} {m a : Nat} (hg : Geometry m d) (h : a < d.size) :
    (addrField a).toNat = a := addrField_toNat (Nat.lt_of_lt_of_le h hg.size_le)

/-- The next sector of an ERASE is a whole sector of the array (41_codec.md R157). -/
theorem legal_se {p : Params} {d : Descriptor} {s : State} {m : Nat} (hg : Geometry m d)
    (hj : jobAdmitted d .eraseSectors s.req) (hpos : jobPosition d .eraseSectors s) :
    (Instr.se (addrField s.addr)).legal p d = true := by
  obtain ⟨haddr, hend⟩ := hpos
  have hsize : s.addr + d.sectorSize ≤ d.size := hend.trans (eraseRange_le_size hg hj)
  have hs := hg.sector_pos
  obtain ⟨a, b, -, hrange⟩ := eraseRange_sectors hs hj
  have haligned : s.addr % d.sectorSize = 0 := by
    rw [haddr, hrange, ← Nat.add_mul, Nat.mul_mod_left]
  rw [Instr.legal, addrField_toNat_of_lt hg (by omega)]
  simp [haligned, hsize]

/-- The next chunk of a WRITE has a byte and lies inside its page (43_session_storage.md R228). -/
theorem chunkLength_bounds {P addr n done : Nat} (hP : 0 < P) (hd : done < n) :
    1 ≤ chunkLength P addr n done ∧ addr % P + chunkLength P addr n done ≤ P
      ∧ chunkLength P addr n done ≤ n - done := by
  have hmod : addr % P < P := Nat.mod_lt _ hP
  unfold chunkLength
  omega

theorem chunkData_length {data : List Byte} {done k : Nat} (h : k ≤ data.length - done) :
    (chunkData data done k).length = k := by
  simpa [chunkData] using h

/-- The next chunk of a WRITE is a page program the codec may send (41_codec.md R159). -/
theorem legal_pp {p : Params} {d : Descriptor} {s : State} {m : Nat} (hg : Geometry m d)
    (hj : jobAdmitted d .write s.req) (hpos : jobPosition d .write s) :
    (Instr.pp (addrField s.addr) (chunkData s.req.data s.done (writeChunk d s))).legal p d = true := by
  obtain ⟨hin, -⟩ := hj
  obtain ⟨haddr, hdone⟩ := hpos
  obtain ⟨hbyte, hpage, hrest⟩ := chunkLength_bounds (addr := s.addr) hg.page_pos hdone
  have hlen : (chunkData s.req.data s.done (writeChunk d s)).length = writeChunk d s := chunkData_length hrest
  have hsize : s.addr + writeChunk d s ≤ d.size := by unfold writeChunk; omega
  rw [Instr.legal, hlen, addrField_toNat_of_lt hg (by unfold writeChunk at hsize; omega)]
  have hle : writeChunk d s ≤ d.pageSize := (Nat.le_add_left _ _).trans hpage
  simp only [Bool.and_eq_true, decide_eq_true_eq]
  exact ⟨⟨⟨hbyte, hle⟩, hpage⟩, hsize⟩

/-- The mutating frame of a job is one the codec may send. -/
theorem legal_jobFrame {p : Params} {d : Descriptor} {j : Job} {s : State} {m : Nat} (hg : Geometry m d)
    (hj : jobAdmitted d j s.req) (hpos : jobPosition d j s) : (commandInstr (jobFrame d j s)).legal p d = true := by
  cases j with
  | unlock | eraseBulk => rfl
  | eraseSectors => exact legal_se hg hj hpos
  | write => exact legal_pp hg hj hpos

/-- The next batch of a READ has a byte and at most `MAX_READ` (43_session_storage.md R225). -/
theorem batchLength_bounds {maxRead n got : Nat} (hm : 1 ≤ maxRead) (hg : got < n) :
    1 ≤ batchLength maxRead n got ∧ batchLength maxRead n got ≤ maxRead ∧ batchLength maxRead n got ≤ n - got := by
  unfold batchLength
  omega

/-- The next batch of a READ is a read the codec may send (41_codec.md R160). -/
theorem legal_readFrame {d : Descriptor} {s : State} {m : Nat} (hg : Geometry m d) (hp : 1 ≤ s.params.maxRead)
    (hin : s.req.offset.toNat + s.req.length.toNat ≤ d.size) (hacc : s.acc.length < s.req.length.toNat)
    (haddr : s.addr = s.req.offset.toNat + s.acc.length) :
    (commandInstr (readFrame s)).legal s.params d = true := by
  obtain ⟨hbyte, hmax, hrest⟩ := batchLength_bounds hp hacc
  rw [readFrame, commandInstr, Instr.legal, addrField_toNat_of_lt hg (by omega)]
  simp only [Bool.and_eq_true, decide_eq_true_eq]
  exact ⟨⟨hbyte, hmax⟩, by omega⟩

/-- `cmd` is one the codec may send in `s`: RDID before there is a descriptor, or a command legal on the session's
device. -/
def Sendable (s : State) (cmd : Command) : Prop :=
  (s.desc = none ∧ cmd = .rdid) ∨ ∃ d, s.desc = some d ∧ (commandInstr cmd).legal s.params d = true

/-- The command of the operation in flight is one the codec may send. -/
theorem sendable_of_inFlight {s : State} {cmd : Command} (hi : SessionInv s) (hc : commandInFlight s = some cmd) :
    Sendable s cmd := by
  unfold commandInFlight at hc
  split at hc
  case h_1 hp =>
    cases hc
    exact .inl ⟨desc_of_identifying hi (seq_of_attach (seqAgrees_of_inv hi) (by simp [hp])), rfl⟩
  case h_5 j d hp hd =>
    cases hc
    obtain ⟨hj, hpos⟩ := position_of_job hi hd (.inr (.inl hp))
    exact .inr ⟨d, hd, legal_jobFrame (desc_geometry hi hd) hj hpos⟩
  case h_6 d hp hd =>
    cases hc
    obtain ⟨hin, hacc, haddr⟩ := position_of_read hi hd hp
    exact .inr ⟨d, hd, legal_readFrame (desc_geometry hi hd) (paramsWf_bounds (params_of_inv hi)).1 hin hacc haddr⟩
  case h_2 | h_3 | h_4 =>
    cases hc
    exact .inr ⟨_, ‹_›, rfl⟩
  case h_7 => cases hc

/-! ### Every exchange is legal -/

/-- A legal command's frame fits in four bytes and a page. -/
theorem encodeFrame_length_le {p : Params} {d : Descriptor} {cmd : Command}
    (h : (commandInstr cmd).legal p d = true) : (encodeFrame d.ops cmd).length ≤ 4 + d.pageSize := by
  cases cmd with
  | pp a data =>
    simp only [commandInstr, Instr.legal, Bool.and_eq_true, decide_eq_true_eq] at h
    obtain ⟨⟨⟨-, hpage⟩, -⟩, -⟩ := h
    simp only [encodeFrame, addr3, List.length_cons, List.length_append, List.length_nil]
    omega
  | _ => simp only [encodeFrame, addr3, List.length_cons, List.length_nil]; omega

theorem exchangeResult_length {c : Choice} {cmd : Command} {s : State} {r : List Byte}
    (h : exchangeResult c cmd s = some r) : r.length = responseLength cmd := by
  rw [(exchangeResult_some.1 h).2, exchangeReply_length]

/-- The exchange of a command the codec may send is legal. -/
theorem eventLegal_exchange {s : State} {cmd : Command} (hi : SessionInv s) (h : Sendable s cmd) (c : Choice) :
    eventLegal s.params
      (.xfer cmd (encodeFrame (opcodesOf s) cmd) (responseLength cmd) (exchangeResult c cmd s)) := by
  refine ⟨rfl, fun r => exchangeResult_length, ?_⟩
  rcases h with ⟨hd, rfl⟩ | ⟨d, hd, hlegal⟩
  · have hframe : 5 ≤ s.params.maxWriteFrame := (paramsWf_bounds (params_of_inv hi)).2
    exact ⟨Nat.le_trans (by decide : 1 ≤ 5) hframe, .inl ⟨rfl, rfl⟩⟩
  · have hops : opcodesOf s = d.ops := by simp [opcodesOf, hd]
    rw [hops]
    exact ⟨(encodeFrame_length_le hlegal).trans (desc_geometry hi hd).frame_le,
      .inr ⟨d, entry_of_desc hi d hd, rfl, hlegal⟩⟩

/-- The way from `s` to `t` keeps the parameters and puts at most one event, a legal one, on the wire. -/
def AddsLegal (s t : State) : Prop :=
  t.params = s.params ∧ (t.wire = s.wire ∨ ∃ e, eventLegal s.params e ∧ t.wire = e :: s.wire)

theorem framesInv_of_addsLegal {s t : State} (hf : FramesInv s) (h : AddsLegal s t) : FramesInv t := by
  obtain ⟨hp, hw | ⟨e, he, hw⟩⟩ := h
  · rw [FramesInv, hp, hw]; exact hf
  · rw [FramesInv, hp, hw]; exact List.forall_mem_cons.2 ⟨he, hf⟩

/-- Nothing is put on the wire. -/
theorem addsLegal_of_eq {s t : State} (hp : t.params = s.params) (hw : t.wire = s.wire) : AddsLegal s t := ⟨hp, .inl hw⟩

theorem addsLegal_of_cons {s t : State} {e : WireEvent} (he : eventLegal s.params e) (hp : t.params = s.params)
    (hw : t.wire = e :: s.wire) : AddsLegal s t := ⟨hp, .inr ⟨e, he, hw⟩⟩

theorem exchanged_addsLegal {s t : State} {cmd : Command} (hi : SessionInv s) (h : Sendable s cmd)
    (ht : SameLink (exchanged cmd s) t) : AddsLegal s t :=
  addsLegal_of_cons (eventLegal_exchange hi h (nextChoice s)) ht.params ht.wire

/-- A command goes over the link as one exchange, or to the chip directly. -/
theorem sendCommand_addsLegal {s : State} {cmd : Command} (hi : SessionInv s) (h : Sendable s cmd) :
    AddsLegal s (sendCommand cmd s) := by
  rcases sendCommand_cases cmd s with ⟨-, e⟩ | ⟨-, -, e⟩ | ⟨-, -, e⟩
  · rw [e]; exact addsLegal_of_eq rfl rfl
  · rw [e]; exact exchanged_addsLegal hi h (resume_sameLink _ _ _)
  · rw [e]; exact exchanged_addsLegal hi h (abandon_sameLink _)

theorem statusExchange_sameLink (d : Descriptor) (s : State) : SameLink (exchanged .rdsr s) (statusExchange d s) := by
  unfold statusExchange
  split
  · exact (recordStatus_sameLink d _ _).trans' (succeed_sameLink _ _)
  · exact raiseError_sameLink _ _

theorem accept_inv {r : Request} {s : State} (hi : SessionInv s) (hp : s.phase = .idle)
    (hw : r.data.length < 2 ^ 32) : SessionInv (accept r s) :=
  sessionInv_idle hi hp hp rfl rfl rfl rfl rfl nofun (budget_pos hi :) ⟨hw, (data_of_inv hi :).2⟩

/-- Of the requests only STATUS makes an exchange in the step that accepts it. -/
theorem requestLeads_addsLegal {i : Instr} {s t : State} (hi : SessionInv s) (hp : s.phase = .idle)
    (hw : (portRecord i s).data.length < 2 ^ 32) (h : RequestLeads i s t) : AddsLegal s t := by
  cases h with
  | releaseReady hi' ha hq => exact addsLegal_of_cons (e := .close) trivial rfl rfl
  | status d hi' hd ha hq =>
    have hs : AddsLegal (accept (portRecord i s) s) (statusExchange d (accept (portRecord i s) s)) :=
      exchanged_addsLegal (accept_inv hi hp hw) (.inr ⟨d, hd, rfl⟩) (statusExchange_sameLink d _)
    exact hs
  | _ => exact addsLegal_of_eq rfl rfl

theorem deliver_addsLegal (s : State) : AddsLegal s (deliver s) := by
  unfold deliver
  split <;> exact addsLegal_of_eq rfl rfl

theorem chipIdles_addsLegal (s : State) : AddsLegal s (chipIdles s) := by
  unfold chipIdles
  split <;> exact addsLegal_of_eq rfl rfl

theorem openLink_addsLegal (s : State) : AddsLegal s (openLink s) := by
  have he : eventLegal s.params (.open s.req.vid s.req.pid s.req.ifidx (!(nextChoice s).openFails)) := trivial
  unfold openLink
  simp only
  split <;> exact addsLegal_of_cons he rfl rfl

/-- A step keeps the parameters and puts at most one event, a legal one, on the wire. -/
theorem stepLeads_addsLegal {s t : State} (hi : SessionInv s) (h : StepLeads s t) : AddsLegal s t := by
  cases h with
  | deliver hp hr => exact deliver_addsLegal s
  | request r rest i t hp hr hb hd hl =>
    have hw : r.data.length < 2 ^ 32 := (decodeRequest_ok.1 hd).1
    have hu : AddsLegal (putOnPort r (popInbox s)) t :=
      requestLeads_addsLegal (putOnPort_inv hi hp hw) hp (by rw [portRecord_of_decode hd]; exact hw) hl
    exact hu
  | chipIdles hp hr hb => exact chipIdles_addsLegal s
  | openLink hp => exact openLink_addsLegal s
  | setIdentClock hp => exact addsLegal_of_cons (e := .setClock s.params.identClockHz) trivial rfl rfl
  | finishAttach d hp =>
    exact addsLegal_of_cons (e := .setClock (Machine.deviceClock s.params d)) trivial rfl rfl
  | closeFailed e hp => exact addsLegal_of_cons (e := .close) trivial rfl rfl
  | command cmd hc => exact sendCommand_addsLegal hi (sendable_of_inFlight hi hc)
  | _ => exact addsLegal_of_eq rfl rfl

/-- Settles O55: the operands of the frame in flight are legal by the session invariant. -/
theorem stepKeepsFramesLegal : Obligations.StepKeepsFramesLegal := by
  unfold Obligations.StepKeepsFramesLegal
  exact fun s t hi hf h => framesInv_of_addsLegal hf (stepLeads_addsLegal hi (step_leads h))

end Sys2Proof.Machine
end

section
/-! The encodings (30_encoding.md): decoding undoes encoding on both interfaces (R101, R108, R109), a decoded frame is its
command's own (R108), and a reserved op code is answered `ReservedOp` (R102). -/

namespace Sys2Proof.Machine

/-! ### The address field -/

/-- The three bytes of an address field are an address again (20_memory.md R74). -/
theorem addrOf_extractLsb' (a : FlashAddr) :
    addrOf (a.extractLsb' 16 8) (a.extractLsb' 8 8) (a.extractLsb' 0 8) = a := by
  unfold addrOf
  rw [BitVec.extractLsb'_append_extractLsb'_eq_extractLsb' (show 16 = 8 + 8 from rfl)]
  exact BitVec.extractLsb'_append_extractLsb'

/-- The field of an address put together from three bytes is these bytes. -/
theorem addr3_addrOf (b2 b1 b0 : Byte) : addr3 (addrOf b2 b1 b0) = [b2, b1, b0] := by
  have hhi : (b2 ++ b1 ++ b0).extractLsb' 16 8 = b2 := by
    rw [BitVec.extractLsb'_append_eq_of_le (by omega)]
    exact BitVec.extractLsb'_append_eq_left
  have hmid : (b2 ++ b1 ++ b0).extractLsb' 8 8 = b1 := by
    rw [BitVec.extractLsb'_append_eq_of_le (by omega)]
    exact BitVec.extractLsb'_append_eq_right
  rw [addr3, addrOf, hhi, hmid, BitVec.extractLsb'_append_eq_right]

/-! ### Frames -/

/-- Decoding undoes encoding of a command: no row of R109 but its own has its opcode (40_registry.md R141 item 9). -/
theorem decodeFrame_encodeFrame {ops : Opcodes} (h : opcodesWf ops = true) (c : Command) :
    decodeFrame ops (encodeFrame ops c) (responseLength c) = .ok c := by
  have hdistinct : (opcodeList ops).Nodup := of_decide_eq_true h
  simp only [opcodeList, List.nodup_cons, List.mem_cons, not_or] at hdistinct
  cases c <;> simp [encodeFrame, decodeFrame, responseLength, addr3, addrOf_extractLsb', hdistinct, eq_comm]

/-- Settles O3: each branch of the decoder that answers a command has read that command's format. -/
theorem encodeOfDecodedFrame : Obligations.EncodeOfDecodedFrame := by
  unfold Obligations.EncodeOfDecodedFrame
  intro ops w n c h
  revert h
  fun_cases decodeFrame ops w n <;> intro h <;> cases h
  all_goals exact ⟨by simp only [encodeFrame, addr3_addrOf, List.cons_append, List.nil_append],
    by simp only [responseLength, *]⟩

/-! ### Both interfaces -/

/-- An instruction is a request or one of the nine commands. -/
theorem request_or_command (i : Instr) : acceptedIn i ≠ none ∨ ∃ c, i = commandInstr c := by
  cases i with
  | rdid => exact .inr ⟨.rdid, rfl⟩
  | rdsr => exact .inr ⟨.rdsr, rfl⟩
  | wren => exact .inr ⟨.wren, rfl⟩
  | wrdi => exact .inr ⟨.wrdi, rfl⟩
  | wrsr v => exact .inr ⟨.wrsr v, rfl⟩
  | se a => exact .inr ⟨.se a, rfl⟩
  | be => exact .inr ⟨.be, rfl⟩
  | pp a d => exact .inr ⟨.pp a d, rfl⟩
  | readData a k => exact .inr ⟨.readData a k, rfl⟩
  | _ => exact .inl nofun

/-- A request is encoded as its record with every other field absent (R100). -/
theorem encode_request (ops : Opcodes) {i : Instr} (hi : acceptedIn i ≠ none) :
    encode ops i = .request (recordOn { op := 0 } i) := by
  cases i with
  | rdid | rdsr | wren | wrdi | wrsr v | se a | be | pp a d | readData a k => exact absurd rfl hi
  | _ => rfl

/-- A command is encoded as its frame (R108). -/
theorem encode_commandInstr (ops : Opcodes) (c : Command) :
    encode ops (commandInstr c) = .frame (encodeFrame ops c) (responseLength c) := by
  cases c <;> rfl

/-- Only a WRITE carries data, and a well-formed one is within the bound of R100. -/
theorem recordOn_data_length {i : Instr} (h : i.wf = true) : (recordOn { op := 0 } i).data.length < 2 ^ 32 := by
  cases i with
  | write o d => exact of_decide_eq_true h
  | _ => exact Nat.two_pow_pos 32

/-- Settles O2: a request by its record, a command by its frame. -/
theorem decodeOfEncode : Obligations.DecodeOfEncode := by
  unfold Obligations.DecodeOfEncode
  intro ops i hops hwf
  obtain hi | ⟨c, rfl⟩ := request_or_command i
  · rw [encode_request ops hi]
    exact decodeRequest_recordOn hi (recordOn_data_length hwf)
  · rw [encode_commandInstr, decode, decodeFrame_encodeFrame hops]

/-- Settles O1: the decoder evaluated on each word. -/
theorem specWordsDecode : Obligations.SpecWordsDecode := by
  unfold Obligations.SpecWordsDecode
  decide

/-! ### Reserved op codes -/

/-- Op codes 0xC to 0xF are no request's (R101, R102). -/
theorem decodeOp_of_reserved {r : Request} (h : 12 ≤ r.op.toNat) : decodeOp r = .error (.reservedOp r.op) := by
  unfold decodeOp
  split
  case h_13 => rfl
  all_goals omega

/-- A record of a reserved op code within the bounds of R100 is rejected as such. -/
theorem decodeRequest_of_reserved {r : Request} (h : 12 ≤ r.op.toNat) (hw : r.data.length < 2 ^ 32) :
    decodeRequest r = .error (.reservedOp r.op) := by
  have hfits : requestFits r = true := decide_eq_true hw
  rw [decodeRequest, if_pos hfits, decodeOp_of_reserved h]

/-- An accepting block answers a record of a reserved op code. -/
theorem takeRequest_of_reserved {r : Request} {s : State} (h : 12 ≤ r.op.toNat) (hw : r.data.length < 2 ^ 32)
    (ha : accepting s = true) : takeRequest r s = .next (refuseRequest .reservedOp (putOnPort r s)) := by
  rw [takeRequest, decode, decodeRequest_of_reserved h hw]
  exact if_pos ha

/-- Settles O9: the record is taken, and the response register is all the answer writes. -/
theorem reservedOpAnswered : Obligations.ReservedOpAnswered := by
  unfold Obligations.ReservedOpAnswered
  intro s r rest hop hw hp hr hseq hb
  have ha : accepting { s with inbox := rest } = true := accepting_iff.2 ⟨hseq, hr⟩
  rw [step_request hp hr hb, takeRequest_of_reserved hop hw ha]
  simp only [refuseRequest, respond, putOnPort, hp]

end Sys2Proof.Machine
end

section
/-! The lookup of the registry (40_registry.md R142). It is the library's `List.find?` for the whole code; where the ids
are distinct, membership alone decides what it answers, and so the order of the registry does not. -/

namespace Sys2Proof.Machine

theorem resolve_eq_find? (reg : List Descriptor) (code : List Byte) :
    resolve reg code = reg.find? (·.id = code) := by
  induction reg with
  | nil => rfl
  | cons e es ih =>
    rw [resolve]
    split
    · next he => rw [List.find?_cons_of_pos (by simpa using he)]
    · next he => rw [List.find?_cons_of_neg (by simpa using he), ih]

theorem resolve_eq_none_iff {reg : List Descriptor} {code : List Byte} :
    resolve reg code = none ↔ ∀ d ∈ reg, d.id ≠ code := by
  simp [resolve_eq_find?]

/-- With distinct ids the entry found is the only one that carries the code (R141 item 2). -/
theorem resolve_eq_some_iff {reg : List Descriptor} {code : List Byte} {d : Descriptor}
    (hids : (reg.map Descriptor.id).Nodup) : resolve reg code = some d ↔ d ∈ reg ∧ d.id = code := by
  refine ⟨resolve_mem, fun ⟨hd, hid⟩ => ?_⟩
  cases hr : resolve reg code with
  | none => exact absurd hid (resolve_eq_none_iff.1 hr d hd)
  | some e =>
    obtain ⟨he, heid⟩ := resolve_mem hr
    rw [List.inj_on_of_nodup_map hids he hd (heid.trans hid.symm)]

theorem resolve_perm {reg reg' : List Descriptor} (code : List Byte) (hids : (reg.map Descriptor.id).Nodup)
    (hperm : reg.Perm reg') : resolve reg' code = resolve reg code := by
  have hids' : (reg'.map Descriptor.id).Nodup := (hperm.map Descriptor.id).nodup_iff.1 hids
  ext d
  rw [resolve_eq_some_iff hids', resolve_eq_some_iff hids, hperm.mem_iff]

/-- No entry has the id that a bus with no chip reads as, idle high or idle low (R141 item 3). -/
theorem descriptorWf_id_ne_quiet {m : Nat} {d : Descriptor} (h : descriptorWf m d = true) :
    d.id ≠ [0xFF, 0xFF, 0xFF] ∧ d.id ≠ [0x00, 0x00, 0x00] :=
  ⟨fun hid => by simp [descriptorWf, hid] at h, fun hid => by simp [descriptorWf, hid] at h⟩

theorem paramsWf_descriptorWf {p : Params} {d : Descriptor} (hp : paramsWf p = true) (hd : d ∈ p.registry) :
    descriptorWf p.maxWriteFrame d = true := by
  simp only [paramsWf, Bool.and_eq_true, List.all_eq_true] at hp
  obtain ⟨⟨⟨⟨⟨-, hentries⟩, -⟩, -⟩, -⟩, -⟩ := hp
  exact hentries d hd

/-- Settles O56: distinct ids make the lookup a function of membership, and no well-formed entry has a quiet bus's id. -/
theorem resolveIsLookup : Obligations.ResolveIsLookup := by
  unfold Obligations.ResolveIsLookup
  refine ⟨fun reg code hids => ⟨fun d => resolve_eq_some_iff hids, resolve_eq_none_iff,
    fun reg' => resolve_perm code hids⟩, fun p hp => ⟨?_, ?_⟩⟩
  · exact resolve_eq_none_iff.2 fun d hd => (descriptorWf_id_ne_quiet (paramsWf_descriptorWf hp hd)).1
  · exact resolve_eq_none_iff.2 fun d hd => (descriptorWf_id_ne_quiet (paramsWf_descriptorWf hp hd)).2

end Sys2Proof.Machine
end

section
/-! Every step keeps the order of frames on the wire (41_codec.md R165, R166, R168): only the positions inside a mutating
command expect a certain newest event, and a step puts at most one event on the wire. -/

namespace Sys2Proof.Machine

/-! ### Events -/

/-- Neither a WREN nor a mutating frame. -/
def isPlain (e : WireEvent) : Bool := !isEnableFrame e && !isMutation e

theorem isPlain_iff {e : WireEvent} : isPlain e = true ↔ isEnableFrame e = false ∧ isMutation e = false := by
  simp [isPlain]

theorem isEnableFrame_of_isEnable {e : WireEvent} (h : isEnable e = true) : isEnableFrame e = true := by
  unfold isEnable at h
  split at h
  · rfl
  all_goals cases h

theorem isMutation_of_done {e : WireEvent} (h : isMutationDone e = true) : isMutation e = true := by
  unfold isMutationDone at h
  split at h
  · exact h
  all_goals cases h

theorem isEnable_eq_false {e : WireEvent} (h : isEnableFrame e = false) : isEnable e = false :=
  Bool.eq_false_iff.2 fun he => by rw [isEnableFrame_of_isEnable he] at h; cases h

theorem isPlain_isEnable {e : WireEvent} (h : isPlain e = true) : isEnable e = false :=
  isEnable_eq_false (isPlain_iff.1 h).1

theorem isPlain_isMutationDone {e : WireEvent} (h : isPlain e = true) : isMutationDone e = false := by
  obtain ⟨-, hmut⟩ := isPlain_iff.1 h
  exact Bool.eq_false_iff.2 fun he => by rw [isMutation_of_done he] at hmut; cases hmut

theorem isEnableFrame_of_mutates {cmd : Command} {w : List Byte} {n : Nat} {r : Option (List Byte)}
    (hc : commandMutates cmd = true) : isEnableFrame (.xfer cmd w n r) = false := by
  cases cmd with
  | wren => cases hc
  | _ => rfl

/-- A WREN is no mutating frame. -/
theorem isEnable_isMutationDone {e : WireEvent} (h : isEnable e = true) : isMutationDone e = false := by
  unfold isEnable at h
  split at h
  · rfl
  all_goals cases h

/-- A status read is neither a WREN nor a mutating frame. -/
theorem isIdleStatus_isPlain {e : WireEvent} (h : isIdleStatus e = true) : isPlain e = true := by
  unfold isIdleStatus at h
  split at h
  · rfl
  all_goals cases h

theorem newestIs_isPlain {wire : List WireEvent} (h : newestIs isPlain wire = true) :
    newestIs isEnable wire = false ∧ newestIs isMutationDone wire = false := by
  cases wire with
  | nil => cases h
  | cons e older => exact ⟨isPlain_isEnable h, isPlain_isMutationDone h⟩

theorem newestIs_imp {p q : WireEvent → Bool} (hpq : ∀ e, p e = true → q e = true) {wire : List WireEvent}
    (h : newestIs p wire = true) : newestIs q wire = true := by
  cases wire with
  | nil => cases h
  | cons e older => exact hpq e h

theorem newestIs_not {p q : WireEvent → Bool} (hpq : ∀ e, p e = true → q e = false) {wire : List WireEvent}
    (h : newestIs p wire = true) : newestIs q wire = false := by
  cases wire with
  | nil => cases h
  | cons e older => exact hpq e h

/-! ### What may follow -/

/-- Anything plain follows a history that ends in neither a WREN nor a mutating frame that succeeded. -/
theorem mayFollow_plain {e : WireEvent} {older : List WireEvent} (he : isPlain e = true)
    (hw : newestIs isEnable older = false) (hm : newestIs isMutationDone older = false) : mayFollow e older = true := by
  obtain ⟨hframe, hmut⟩ := isPlain_iff.1 he
  simp [mayFollow, hframe, hmut, hw, hm]

/-- A status read follows a mutating frame too (R166). -/
theorem mayFollow_rdsr {w : List Byte} {n : Nat} {r : Option (List Byte)} {older : List WireEvent}
    (hw : newestIs isEnable older = false) : mayFollow (.xfer .rdsr w n r) older = true := by
  simp [mayFollow, hw, isMutation, commandMutates, isStatusRead, isEnableFrame]

/-- A WREN follows an idle status (R168). -/
theorem mayFollow_wren {w : List Byte} {n : Nat} {r : Option (List Byte)} {older : List WireEvent}
    (h : newestIs isIdleStatus older = true) : mayFollow (.xfer .wren w n r) older = true := by
  obtain ⟨hw, hm⟩ := newestIs_isPlain (newestIs_imp (fun _ => isIdleStatus_isPlain) h)
  simp [mayFollow, h, hw, hm, isMutation, commandMutates]

/-- A mutating frame follows a WREN that succeeded (R165). -/
theorem mayFollow_mutation {cmd : Command} {w : List Byte} {n : Nat} {r : Option (List Byte)} {older : List WireEvent}
    (hc : commandMutates cmd = true) (h : newestIs isEnable older = true) : mayFollow (.xfer cmd w n r) older = true := by
  have hm : newestIs isMutationDone older = false := newestIs_not (fun _ => isEnable_isMutationDone) h
  have he : isEnableFrame (.xfer cmd w n r) = false := isEnableFrame_of_mutates hc
  simp [mayFollow, h, hm, he, isMutation, hc]

theorem commandMutates_jobFrame (d : Descriptor) (j : Job) (s : State) : commandMutates (jobFrame d j s) = true := by
  cases j <;> rfl

/-! ### Positions -/

/-- The positions that do not lie inside a mutating command. -/
def quietAt : Phase → Bool
  | .mutate _ | .writeEnable _ | .waitDone _ => false
  | .idle | .openLink | .identClock | .identify | .deviceClock _ | .closeLink _ | .waitIdle _ | .readData => true

theorem wireAgrees_quiet {s : State} (h : quietAt s.phase = true) :
    wireAgrees s = true ↔ newestIs isEnable s.wire = false ∧ newestIs isMutationDone s.wire = false := by
  unfold wireAgrees
  split
  case h_1 | h_2 | h_3 => simp_all [quietAt]
  all_goals simp

theorem wireAgrees_waitDone {s : State} {j : Job} (h : s.phase = .waitDone j) :
    wireAgrees s = true ↔ newestIs isEnable s.wire = false := by
  simp [wireAgrees, h]

theorem wireAgrees_writeEnable {s : State} {j : Job} (h : s.phase = .writeEnable j) :
    wireAgrees s = newestIs isIdleStatus s.wire := by
  simp [wireAgrees, h]

theorem wireAgrees_mutate {s : State} {j : Job} (h : s.phase = .mutate j) :
    wireAgrees s = newestIs isEnable s.wire := by
  simp [wireAgrees, h]

/-! ### Steps outside a mutating command -/

theorem gatingInv_cons {s t : State} {e : WireEvent} (hg : GatingInv s) (hw : t.wire = e :: s.wire)
    (he : mayFollow e s.wire = true) (ht : wireAgrees t = true) : GatingInv t :=
  ⟨by rw [hw, wireGated, he, hg.1]; rfl, ht⟩

/-- The way from `s` to `t` ends outside a mutating command and puts at most one event, a plain one, on the wire. -/
def QuietMove (s t : State) : Prop :=
  quietAt t.phase = true ∧ (t.wire = s.wire ∨ ∃ e, isPlain e = true ∧ t.wire = e :: s.wire)

theorem gatingInv_of_quietMove {s t : State} (hg : GatingInv s) (hs : quietAt s.phase = true) (h : QuietMove s t) :
    GatingInv t := by
  obtain ⟨hgated, hagrees⟩ := hg
  obtain ⟨hwren, hmut⟩ := (wireAgrees_quiet hs).1 hagrees
  obtain ⟨ht, hw | ⟨e, he, hw⟩⟩ := h
  · exact ⟨by rw [hw]; exact hgated, (wireAgrees_quiet ht).2 (by rw [hw]; exact ⟨hwren, hmut⟩)⟩
  · refine gatingInv_cons ⟨hgated, hagrees⟩ hw (mayFollow_plain he hwren hmut) ((wireAgrees_quiet ht).2 ?_)
    rw [hw]
    exact newestIs_isPlain (wire := e :: s.wire) he

theorem quietMove_of_eq {s t : State} (ht : quietAt t.phase = true) (hw : t.wire = s.wire) : QuietMove s t :=
  ⟨ht, .inl hw⟩

theorem quietMove_of_cons {s t : State} (e : WireEvent) (he : isPlain e = true) (ht : quietAt t.phase = true)
    (hw : t.wire = e :: s.wire) : QuietMove s t := ⟨ht, .inr ⟨e, he, hw⟩⟩

theorem exchanged_quietMove {s t : State} {cmd : Command} (hc : cmd ≠ .wren) (hm : commandMutates cmd = false)
    (hl : SameLink (exchanged cmd s) t) (ht : quietAt t.phase = true) : QuietMove s t := by
  refine quietMove_of_cons _ ?_ ht hl.wire
  cases cmd with
  | wren => exact absurd rfl hc
  | wrsr | se | be | pp => cases hm
  | rdid | rdsr | wrdi | readData => rfl

theorem statusExchange_phase (d : Descriptor) (s : State) : (statusExchange d s).phase = .idle := by
  unfold statusExchange
  split <;> rfl

theorem requestLeads_quietMove {i : Instr} {s t : State} (hp : s.phase = .idle) (h : RequestLeads i s t) :
    QuietMove s t := by
  cases h with
  | held ha => exact quietMove_of_eq (by rw [hold_phase, hp]; rfl) rfl
  | releaseReady hi ha hq => exact quietMove_of_cons .close rfl rfl rfl
  | status d hi hd ha hq =>
    have hs : QuietMove (accept (portRecord i s) s) (statusExchange d (accept (portRecord i s) s)) :=
      exchanged_quietMove (cmd := .rdsr) nofun rfl (statusExchange_sameLink d _) (by rw [statusExchange_phase]; rfl)
    exact hs
  | _ => exact quietMove_of_eq rfl rfl

theorem deliver_quietMove {s : State} (hp : s.phase = .idle) : QuietMove s (deliver s) := by
  unfold deliver
  split <;> exact quietMove_of_eq (by simp [hp, quietAt]) rfl

theorem chipIdles_quietMove {s : State} (hp : s.phase = .idle) : QuietMove s (chipIdles s) := by
  unfold chipIdles
  split <;> exact quietMove_of_eq (by simp [hp, quietAt]) rfl

theorem openLink_quietMove (s : State) : QuietMove s (openLink s) := by
  have he : isPlain (.open s.req.vid s.req.pid s.req.ifidx (!(nextChoice s).openFails)) = true := rfl
  unfold openLink
  simp only
  split <;> exact quietMove_of_cons _ he rfl rfl

theorem gathered_phase {r : List Byte} {s : State} (hp : s.phase = .readData) :
    (gathered r s).phase = .readData ∨ (gathered r s).phase = .idle := by
  unfold gathered
  rw [hp]
  simp only
  split
  · exact .inl rfl
  · exact .inr rfl

/-! ### Steps inside a mutating command -/

theorem beginJob_phase (d : Descriptor) (j : Job) (b : Byte) (s : State) :
    (beginJob d j b s).phase = .writeEnable j ∨ (beginJob d j b s).phase = .idle := by
  unfold beginJob
  cases j with
  | unlock =>
    simp only
    split
    · exact .inl rfl
    · exact .inr rfl
  | eraseBulk | eraseSectors | write =>
    simp only
    split
    · exact .inr rfl
    · exact .inl rfl

theorem advanceJob_phase (d : Descriptor) (j : Job) (b : Byte) (s : State) :
    (advanceJob d j b s).phase = .writeEnable j ∨ (advanceJob d j b s).phase = .idle := by
  unfold advanceJob
  cases j with
  | unlock =>
    simp only
    split <;> exact .inr rfl
  | eraseBulk => exact .inr rfl
  | eraseSectors | write =>
    simp only
    split
    · exact .inl rfl
    · exact .inr rfl

/-- A status read of WaitReady, before the first mutating command or after a mutating frame. -/
theorem gatingInv_statusRead {s t : State} {j : Job} {w : List Byte} {n : Nat} {r : Option (List Byte)}
    (hg : GatingInv s) (hp : s.phase = .waitIdle j ∨ s.phase = .waitDone j) (hw : t.wire = .xfer .rdsr w n r :: s.wire)
    (ht : t.phase = s.phase ∨ t.phase = .idle
      ∨ (t.phase = .writeEnable j ∧ isIdleStatus (.xfer .rdsr w n r) = true)) : GatingInv t := by
  have hwren : newestIs isEnable s.wire = false := by
    rcases hp with hp | hp
    · exact ((wireAgrees_quiet (by rw [hp]; rfl)).1 hg.2).1
    · exact (wireAgrees_waitDone hp).1 hg.2
  refine gatingInv_cons hg hw (mayFollow_rdsr hwren) ?_
  have hplain : newestIs isEnable t.wire = false ∧ newestIs isMutationDone t.wire = false := by
    rw [hw]
    exact ⟨rfl, by cases r <;> rfl⟩
  rcases ht with ht | ht | ⟨ht, hidle⟩
  · rcases hp with hp | hp
    · exact (wireAgrees_quiet (by rw [ht, hp]; rfl)).2 hplain
    · exact (wireAgrees_waitDone (ht.trans hp)).2 hplain.1
  · exact (wireAgrees_quiet (by rw [ht]; rfl)).2 hplain
  · rw [wireAgrees_writeEnable ht, hw]
    exact hidle

/-- The WREN of a mutating command. -/
theorem gatingInv_wren {s t : State} {j : Job} {w : List Byte} {n : Nat} {r : Option (List Byte)} (hg : GatingInv s)
    (hp : s.phase = .writeEnable j) (hw : t.wire = .xfer .wren w n r :: s.wire)
    (ht : (t.phase = .idle ∧ r = none) ∨ (t.phase = .mutate j ∧ r.isSome = true)) : GatingInv t := by
  have hidle : newestIs isIdleStatus s.wire = true := (wireAgrees_writeEnable hp).symm.trans hg.2
  refine gatingInv_cons hg hw (mayFollow_wren hidle) ?_
  rcases ht with ⟨ht, rfl⟩ | ⟨ht, hr⟩
  · exact (wireAgrees_quiet (by rw [ht]; rfl)).2 (by rw [hw]; exact ⟨rfl, rfl⟩)
  · obtain ⟨r, rfl⟩ := Option.isSome_iff_exists.1 hr
    rw [wireAgrees_mutate ht, hw]
    rfl

/-- Its mutating frame. -/
theorem gatingInv_mutation {s t : State} {j : Job} {cmd : Command} {w : List Byte} {n : Nat} {r : Option (List Byte)}
    (hg : GatingInv s) (hp : s.phase = .mutate j) (hc : commandMutates cmd = true)
    (hw : t.wire = .xfer cmd w n r :: s.wire)
    (ht : (t.phase = .idle ∧ r = none) ∨ t.phase = .waitDone j) : GatingInv t := by
  have hwren : newestIs isEnable s.wire = true := (wireAgrees_mutate hp).symm.trans hg.2
  have hnot : isEnable (.xfer cmd w n r) = false := isEnable_eq_false (isEnableFrame_of_mutates hc)
  refine gatingInv_cons hg hw (mayFollow_mutation hc hwren) ?_
  rcases ht with ⟨ht, rfl⟩ | ht
  · exact (wireAgrees_quiet (by rw [ht]; rfl)).2 (by rw [hw]; exact ⟨hnot, rfl⟩)
  · exact (wireAgrees_waitDone ht).2 (by rw [hw]; exact hnot)

theorem commandInFlight_wait {s : State} {j : Job} {cmd : Command} (hp : s.phase = .waitIdle j ∨ s.phase = .waitDone j)
    (h : commandInFlight s = some cmd) : cmd = .rdsr := by
  cases hd : s.desc with
  | none => rcases hp with hp | hp <;> simp [commandInFlight, hp, hd] at h
  | some d => rcases hp with hp | hp <;> simpa [commandInFlight, hp, hd, eq_comm] using h

theorem commandInFlight_writeEnable {s : State} {j : Job} {cmd : Command} (hp : s.phase = .writeEnable j)
    (h : commandInFlight s = some cmd) : cmd = .wren := by
  cases hd : s.desc with
  | none => simp [commandInFlight, hp, hd] at h
  | some d => simpa [commandInFlight, hp, hd, eq_comm] using h

/-- A command of the operation in flight keeps the order. -/
theorem commandLeads_gatingInv {s t : State} (hg : GatingInv s) (h : CommandLeads s t) : GatingInv t := by
  have hquiet {cmd : Command} (hs : quietAt s.phase = true) (hc : cmd ≠ .wren) (hm : commandMutates cmd = false)
      (hl : SameLink (exchanged cmd s) t) (ht : quietAt t.phase = true) : GatingInv t :=
    gatingInv_of_quietMove hg hs (exchanged_quietMove hc hm hl ht)
  have hlost {cmd : Command} (hx : (nextChoice s).xferFails = true) : (exchanged cmd s).wire
      = .xfer cmd (encodeFrame (opcodesOf s) cmd) (responseLength cmd) none :: s.wire := by
    rw [exchanged_wire, exchangeResult_none.2 hx]
  have hidle {r : List Byte} (hb : statusBusy (r.headD 0) = false) :
      isIdleStatus (.xfer .rdsr (encodeFrame (opcodesOf s) .rdsr) (responseLength .rdsr) (some r)) = true := by
    rw [isIdleStatus, hb]; rfl
  cases h with
  | found d code hp hr => exact hquiet (cmd := .rdid) (by rw [hp]; rfl) nofun rfl (by constructor <;> rfl) rfl
  | unknown code hp => exact hquiet (cmd := .rdid) (by rw [hp]; rfl) nofun rfl (by constructor <;> rfl) rfl
  | lost hp => exact hquiet (cmd := .rdid) (by rw [hp]; rfl) nofun rfl (by constructor <;> rfl) rfl
  | failed j cmd hc hp hx =>
    by_cases hwren : s.phase = .writeEnable j
    · obtain rfl := commandInFlight_writeEnable hwren hc
      exact gatingInv_wren hg hwren (hlost hx) (.inl ⟨rfl, rfl⟩)
    · have hwait : s.phase = .waitIdle j ∨ s.phase = .waitDone j := by tauto
      obtain rfl := commandInFlight_wait hwait hc
      exact gatingInv_statusRead hg hwait (hlost hx) (.inr (.inl rfl))
  | failedMutation j d hd hp hx =>
    exact gatingInv_mutation hg hp (commandMutates_jobFrame d j s) (hlost hx) (.inl ⟨rfl, rfl⟩)
  | failedRead d hd hp hx =>
    exact hquiet (cmd := readFrame s) (by rw [hp]; rfl) nofun rfl (raiseError_sameLink _ _) rfl
  | polls j d r hd hp hr hb hn => exact gatingInv_statusRead hg hp (exchanged_wire _ _) (.inl rfl)
  | timeout j d r hd hp hr hb hn => exact gatingInv_statusRead hg hp (exchanged_wire _ _) (.inr (.inl rfl))
  | begins j d r hd hp hr hb =>
    refine gatingInv_statusRead hg (.inl hp) ((beginJob_sameLink _ _ _ _).wire.trans (exchanged_rdsr_wire hr))
      (.inr ?_)
    exact (beginJob_phase _ _ _ _).symm.imp_right fun ht => ⟨ht, hidle hb⟩
  | advances j d r hd hp hr hb =>
    refine gatingInv_statusRead hg (.inr hp) ((advanceJob_sameLink _ _ _ _).wire.trans (exchanged_rdsr_wire hr))
      (.inr ?_)
    exact (advanceJob_phase _ _ _ _).symm.imp_right fun ht => ⟨ht, hidle hb⟩
  | enables j r hp hr =>
    exact gatingInv_wren hg hp (exchanged_wire _ _) (.inr ⟨rfl, by rw [hr]; rfl⟩)
  | mutates j d hd hp hx =>
    exact gatingInv_mutation hg hp (commandMutates_jobFrame d j s) (exchanged_wire _ _) (.inr rfl)
  | gathers d r hd hp hl =>
    refine hquiet (cmd := readFrame s) (by rw [hp]; rfl) nofun rfl (gathered_sameLink r _) ?_
    rcases gathered_phase (r := r) (s := exchanged (readFrame s) s) hp with ht | ht <;> rw [ht] <;> rfl

/-- A command goes over the link, or to the chip directly and not on the wire. -/
theorem sendCommand_gatingInv {s : State} {cmd : Command} (hg : GatingInv s) (hc : commandInFlight s = some cmd) :
    GatingInv (sendCommand cmd s) := by
  cases hh : s.handle with
  | none => rw [sendCommand_direct hh]; exact hg
  | _ => exact commandLeads_gatingInv hg (command_leads hh hc)

theorem stepLeads_gatingInv {s t : State} (hg : GatingInv s) (h : StepLeads s t) : GatingInv t := by
  have hidle (hp : s.phase = .idle) : QuietMove s t → GatingInv t :=
    gatingInv_of_quietMove hg (by rw [hp]; rfl)
  cases h with
  | deliver hp hr => exact hidle hp (deliver_quietMove hp)
  | request r rest i t hp hr hb hd hl =>
    have hu : QuietMove (putOnPort r (popInbox s)) t := requestLeads_quietMove hp hl
    exact hidle hp hu
  | reserved r rest hp hr hb hw ha => exact hidle hp (quietMove_of_eq rfl rfl)
  | newBlock rest hp hr hb => exact hidle hp (quietMove_of_eq rfl rfl)
  | reservedHeld | probe | probeUnknown => exact hg
  | chipIdles hp hr hb => exact hidle hp (chipIdles_quietMove hp)
  | openLink hp => exact gatingInv_of_quietMove hg (by rw [hp]; rfl) (openLink_quietMove s)
  | setIdentClock hp =>
    exact gatingInv_of_quietMove hg (by rw [hp]; rfl) (quietMove_of_cons (.setClock _) rfl rfl rfl)
  | finishAttach d hp =>
    exact gatingInv_of_quietMove hg (by rw [hp]; rfl) (quietMove_of_cons (.setClock _) rfl rfl rfl)
  | closeFailed e hp => exact gatingInv_of_quietMove hg (by rw [hp]; rfl) (quietMove_of_cons .close rfl rfl rfl)
  | command cmd hc => exact sendCommand_gatingInv hg hc

/-- Settles O54: the newest event a position inside a mutating command expects is the one its next frame may follow. -/
theorem stepKeepsWriteEnableGating : Obligations.StepKeepsWriteEnableGating := by
  unfold Obligations.StepKeepsWriteEnableGating
  exact fun s t hg h => stepLeads_gatingInv hg (step_leads h)

end Sys2Proof.Machine
end

section
/-! The commands of the codec on the chip they reach (41_codec.md R152, R154-R159, 44_flash_device_model.md R252-R259): the
frame each is, and what it does to the chip. -/

namespace Sys2Proof.Machine

/-! ### A command that reaches the chip -/

/-- A command that reaches an idle chip. -/
theorem sendCommand_chip_idle {cmd : Command} {s : State} {g : Descriptor} (h : reachesIdle g s) :
    (sendCommand cmd s).chip = chipCommand (nextChoice s) g cmd s.chip := by
  rw [sendCommand_chip (reachesIdle_reachesChip h), chipSettle_of_idle h.2.1]

/-- The exchange of a command that asks no response byte. -/
theorem sendCommand_wire_silent {cmd : Command} {s : State} {g : Descriptor} (h : reachesIdle g s)
    (hr : responseLength cmd = 0) (hh : s.handle = .open) :
    (sendCommand cmd s).wire = .xfer cmd (encodeFrame g.ops cmd) 0 (some []) :: s.wire := by
  rw [sendCommand_wire (reachesIdle_reachesChip h) hh, hr, List.range_zero, List.map_nil]

/-! ### WREN, WRDI and WRSR -/

/-- Settles O24: an idle chip's latch is set or cleared and nothing else. -/
theorem wrenSetsWrdiClearsLatch : Obligations.WrenSetsWrdiClearsLatch := by
  unfold Obligations.WrenSetsWrdiClearsLatch
  intro s g h
  have hidle : s.chip.busy = false := h.2.1
  refine ⟨⟨_, exec_commandInstr .wren s, ?_, sendCommand_wire_silent h rfl⟩,
    ⟨_, exec_commandInstr .wrdi s, ?_, sendCommand_wire_silent h rfl⟩⟩
  · rw [sendCommand_chip_idle h]; simp [chipCommand, hidle]
  · rw [sendCommand_chip_idle h]; simp [chipCommand, hidle]

theorem chipWrsr_written {c : Choice} {g : Descriptor} {v : Byte} {ch : Chip} (hw : ch.wel = true)
    (hr : c.refuses = false) : chipWrsr c g v ch = { ch with bp := v &&& g.bpMask, busy := true } := by
  simp [chipWrsr, hw, hr]

theorem chipWrsr_refused {c : Choice} {g : Descriptor} {v : Byte} {ch : Chip} (hw : ch.wel = true)
    (hr : c.refuses = true) : chipWrsr c g v ch = { ch with wel := c.wel, busy := c.busy } := by
  simp [chipWrsr, hw, hr]

/-- Settles O25, by whether the chip refuses the write. -/
theorem wrsrWritesProtectBits : Obligations.WrsrWritesProtectBits := by
  unfold Obligations.WrsrWritesProtectBits
  intro s g v h hw
  have hchip : (sendCommand (.wrsr v) s).chip = chipWrsr (nextChoice s) g v s.chip := by
    rw [sendCommand_chip_idle h]; simp [chipCommand, h.2.1]
  refine ⟨_, exec_commandInstr (.wrsr v) s, fun hr => ?_, fun hr => ?_, sendCommand_wire_silent h rfl⟩
  · rw [hchip, chipWrsr_written hw hr]
  · rw [hchip, chipWrsr_refused hw hr]; exact ⟨rfl, rfl⟩

/-! ### SE -/

theorem chipSe_erased {c : Choice} {g : Descriptor} {a : Nat} {ch : Chip} (hw : ch.wel = true)
    (hin : floorTo a g.sectorSize + g.sectorSize ≤ g.size)
    (hp : protectedRange g ch (floorTo a g.sectorSize) g.sectorSize = false) :
    chipSe c g a ch
      = { chipStore ch (floorTo a g.sectorSize) g.sectorSize (fun _ => Config.erased) with busy := true } := by
  simp [chipSe, hw, hin, hp]

theorem chipSe_protected {c : Choice} {g : Descriptor} {a : Nat} {ch : Chip} (hw : ch.wel = true)
    (hin : floorTo a g.sectorSize + g.sectorSize ≤ g.size)
    (hp : protectedRange g ch (floorTo a g.sectorSize) g.sectorSize = true) :
    chipSe c g a ch = { ch with wel := c.wel } := by
  simp [chipSe, hw, hin, hp]

theorem chipSe_outside {c : Choice} {g : Descriptor} {a : Nat} {ch : Chip} (hw : ch.wel = true)
    (hout : ¬ floorTo a g.sectorSize + g.sectorSize ≤ g.size) : chipSe c g a ch = chipUnprotectedOpen c g ch := by
  rw [chipSe, if_pos hw, if_neg hout]

theorem sendCommand_chip_se {s : State} {g : Descriptor} {a : FlashAddr} (h : reachesIdle g s) :
    (sendCommand (.se a) s).chip = chipSe (nextChoice s) g a.toNat s.chip := by
  rw [sendCommand_chip_idle h]; simp [chipCommand, h.2.1]

/-- Settles O26: the sector is stored whole, or protected, or not inside the array. -/
theorem seErasesSector : Obligations.SeErasesSector := by
  unfold Obligations.SeErasesSector
  refine ⟨fun s g a h hm hw hin => ⟨_, exec_commandInstr (.se a) s, fun hp => ?_, fun ⟨x, hlo, hhi, hx⟩ => ?_,
    sendCommand_wire_silent h rfl⟩, fun s g a h hw hout => ⟨_, exec_commandInstr (.se a) s, ?_⟩⟩
  · rw [sendCommand_chip_se h, chipSe_erased hw hin (protectedRange_false hp)]
    exact ⟨rfl, fun x => chipByte_chipStore hm _ _ _ x⟩
  · rw [sendCommand_chip_se h, chipSe_protected hw hin (protectedRange_true hlo hhi hx)]
    exact ⟨rfl, h.2.1⟩
  · rw [sendCommand_chip_se h, chipSe_outside hw hout]
    exact ⟨rfl, fun x hx hp => chipByte_chipUnprotectedOpen hx hp⟩

/-! ### BE -/

theorem chipBe_erased {c : Choice} {g : Descriptor} {ch : Chip} (hw : ch.wel = true) (hp : protectBits g ch = 0) :
    chipBe c g ch = { chipStore ch 0 g.size (fun _ => Config.erased) with busy := true } := by
  rw [chipBe, if_pos hw, if_neg (not_not.2 hp)]

theorem chipBe_protected {c : Choice} {g : Descriptor} {ch : Chip} (hw : ch.wel = true) (hp : protectBits g ch ≠ 0) :
    chipBe c g ch = { ch with wel := c.wel } := by
  rw [chipBe, if_pos hw, if_pos hp]

/-- Settles O27, by the protect bits in effect. -/
theorem beErasesChip : Obligations.BeErasesChip := by
  unfold Obligations.BeErasesChip
  intro s g h hm hw
  have hchip : (sendCommand .be s).chip = chipBe (nextChoice s) g s.chip := by
    rw [sendCommand_chip_idle h]; simp [chipCommand, h.2.1]
  refine ⟨_, exec_commandInstr .be s, fun hp => ?_, fun hp => ?_, sendCommand_wire_silent h rfl⟩
  · rw [hchip, chipBe_erased hw hp]
    refine ⟨rfl, fun x => ?_⟩
    have hread := chipByte_chipStore hm 0 g.size (fun _ => Config.erased) x
    simp only [Nat.zero_le, true_and, Nat.zero_add] at hread
    exact hread
  · rw [hchip, chipBe_protected hw hp]
    exact ⟨rfl, h.2.1⟩

/-! ### PP -/

theorem chipPp_programmed {c : Choice} {g : Descriptor} {a : Nat} {data : List Byte} {ch : Chip} (hw : ch.wel = true)
    (hin : floorTo a g.pageSize + g.pageSize ≤ g.size) (hne : data ≠ []) (hfit : data.length ≤ g.pageSize)
    (hp : protectedRange g ch (floorTo a g.pageSize) g.pageSize = false) :
    chipPp c g a data ch
      = { chipStore ch (floorTo a g.pageSize) g.pageSize (programmedByte g.pageSize a data ch) with busy := true } := by
  simp [chipPp, hw, hin, hne, hfit, hp]

theorem chipPp_protected {c : Choice} {g : Descriptor} {a : Nat} {data : List Byte} {ch : Chip} (hw : ch.wel = true)
    (hin : floorTo a g.pageSize + g.pageSize ≤ g.size) (hne : data ≠ []) (hfit : data.length ≤ g.pageSize)
    (hp : protectedRange g ch (floorTo a g.pageSize) g.pageSize = true) :
    chipPp c g a data ch = { ch with wel := c.wel } := by
  simp [chipPp, hw, hin, hne, hfit, hp]

theorem chipByte_chipPp_oversize {c : Choice} {g : Descriptor} {a : Nat} {data : List Byte} {ch : Chip} {x : Nat}
    (hm : chipWf ch) (hw : ch.wel = true) (hin : floorTo a g.pageSize + g.pageSize ≤ g.size) (hne : data ≠ [])
    (hbig : g.pageSize < data.length) :
    chipByte (chipPp c g a data ch) x
      = if floorTo a g.pageSize ≤ x ∧ x < floorTo a g.pageSize + g.pageSize then oversizedByte c g ch x
        else chipByte ch x := by
  rw [chipPp, if_pos hw, if_pos ⟨hin, hne⟩, if_neg (Nat.not_le.2 hbig)]
  exact chipByte_chipStore hm _ _ _ x

theorem chipPp_open {c : Choice} {g : Descriptor} {a : Nat} {data : List Byte} {ch : Chip} (hw : ch.wel = true)
    (hout : data = [] ∨ ¬ floorTo a g.pageSize + g.pageSize ≤ g.size) :
    chipPp c g a data ch = chipUnprotectedOpen c g ch := by
  rw [chipPp, if_pos hw, if_neg fun ⟨hin, hne⟩ => hout.elim hne (absurd hin)]

theorem sendCommand_chip_pp {s : State} {g : Descriptor} {a : FlashAddr} {data : List Byte} (h : reachesIdle g s) :
    (sendCommand (.pp a data) s).chip = chipPp (nextChoice s) g a.toNat data s.chip := by
  rw [sendCommand_chip_idle h]; simp [chipCommand, h.2.1]

/-- The byte payload byte `i` lands on. -/
theorem programmedByte_hit {P a i : Nat} {data : List Byte} {b : Byte} (ch : Chip) (hi : i < P)
    (hb : data[i]? = some b) : programmedByte P a data ch (a / P * P + (a % P + i) % P)
      = chipByte ch (a / P * P + (a % P + i) % P) &&& b := by
  rw [programmedByte, pageIndex_hit (Nat.zero_lt_of_lt hi) hi, hb]

/-- A byte of the page no payload byte lands on. -/
theorem programmedByte_miss {P a x : Nat} {data : List Byte} (ch : Chip) (hlo : a / P * P ≤ x) (hhi : x < a / P * P + P)
    (hx : ∀ i, i < data.length → x ≠ a / P * P + (a % P + i) % P) : programmedByte P a data ch x = chipByte ch x := by
  obtain ⟨-, hindex⟩ := pageIndex_inv (by omega) hlo hhi
  have hpast : data.length ≤ pageIndex P a x := Nat.not_lt.1 fun hlt => hx _ hlt hindex
  rw [programmedByte, List.getElem?_eq_none hpast]

/-- An oversize payload clears bits of a byte that is not protected and leaves one that is. -/
theorem oversizedByte_clears (c : Choice) (g : Descriptor) (ch : Chip) (x : Nat) :
    if protectedByte g ch x = false then oversizedByte c g ch x &&& chipByte ch x = oversizedByte c g ch x
      else oversizedByte c g ch x = chipByte ch x := by
  unfold oversizedByte
  cases protectedByte g ch x
  · show chipByte ch x &&& Config.freeByte c.epoch x &&& chipByte ch x = chipByte ch x &&& Config.freeByte c.epoch x
    rw [BitVec.and_comm, ← BitVec.and_assoc, BitVec.and_self]
  · rfl

/-- Settles O28: payload byte `i` is the one the page index of its address names. -/
theorem ppAndsIntoPage : Obligations.PpAndsIntoPage := by
  unfold Obligations.PpAndsIntoPage
  refine ⟨fun s g a data h hm hw hbyte hfit hin hp => ⟨_, exec_commandInstr (.pp a data) s, ?_⟩,
    fun s g a data h hm hw hne hin =>
      ⟨_, exec_commandInstr (.pp a data) s, fun hfit ⟨x, hlo, hhi, hx⟩ => ?_, fun hbig x => ?_⟩,
    fun s g a data h hw hout => ⟨_, exec_commandInstr (.pp a data) s, ?_⟩⟩
  · have hread (x : Nat) := chipByte_chipStore hm (floorTo a.toNat g.pageSize) g.pageSize
      (programmedByte g.pageSize a.toNat data s.chip) x
    have hP : 0 < g.pageSize := by omega
    rw [sendCommand_chip_pp h,
      chipPp_programmed hw hin (List.ne_nil_of_length_pos hbyte) hfit (protectedRange_false hp)]
    refine ⟨rfl, fun i b hb => ?_, fun x hx => ?_, sendCommand_wire_silent h rfl⟩
    · have hi : i < data.length := (List.getElem?_eq_some_iff.1 hb).1
      have hoff : (a.toNat % g.pageSize + i) % g.pageSize < g.pageSize := Nat.mod_lt _ hP
      refine (hread _).trans ?_
      rw [if_pos ⟨Nat.le_add_right _ _, Nat.add_lt_add_left hoff _⟩, programmedByte_hit s.chip (by omega) hb]
    · refine (hread x).trans ?_
      split
      · next hpage => exact programmedByte_miss s.chip hpage.1 hpage.2 hx
      · rfl
  · rw [sendCommand_chip_pp h, chipPp_protected hw hin hne hfit (protectedRange_true hlo hhi hx)]
    exact ⟨rfl, h.2.1⟩
  · rw [sendCommand_chip_pp h, chipByte_chipPp_oversize hm hw hin hne hbig]
    by_cases hpage : a.toNat / g.pageSize * g.pageSize ≤ x ∧ x < a.toNat / g.pageSize * g.pageSize + g.pageSize
    · rw [floorTo, if_pos hpage]
      simpa only [hpage, true_and] using oversizedByte_clears (nextChoice s) g s.chip x
    · rw [floorTo, if_neg hpage, if_neg fun h => hpage ⟨h.1, h.2.1⟩]
  · rw [sendCommand_chip_pp h, chipPp_open hw hout]
    exact ⟨rfl, fun x hx hp => chipByte_chipUnprotectedOpen hx hp⟩

/-! ### RDID -/

/-- The chip's answer to RDID: its code, or drawn bytes while it stays busy (R252, R267). -/
def rdidAnswer (c : Choice) (ch : Chip) : List Byte := (List.range 3).map (chipAnswers c .rdid (chipSettle c ch))

theorem rdidAnswer_code {c : Choice} {ch : Chip} (hid : ch.id.length = 3) (h : ch.busy = false ∨ c.completes = true) :
    rdidAnswer c ch = ch.id := by
  have hidle : (chipSettle c ch).busy = false := by rw [chipSettle_busy]; rcases h with h | h <;> simp [h]
  obtain ⟨b0, b1, b2, hb⟩ := List.length_eq_three.1 hid
  simp [rdidAnswer, chipAnswers_rdid, hidle, hb, List.range_succ]

theorem rdidAnswer_busy {c : Choice} {ch : Chip} (hb : ch.busy = true) (hc : c.completes = false) :
    rdidAnswer c ch = [0, 1, 2].map (Config.freeByte c.epoch) := by
  simp [rdidAnswer, chipAnswers_rdid, chipSettle_of_stays hc, hb, List.range_succ]

/-- RDID over the link of a block whose descriptor, if it has one, is the chip's. -/
theorem sendCommand_rdid {s : State} (hh : s.handle = .open) (hm : mismatched s = false)
    (hx : (nextChoice s).xferFails = false) :
    sendCommand .rdid s = resume .rdid (rdidAnswer (nextChoice s) s.chip) (exchanged .rdid s) := by
  rw [sendCommand_answered hh hx, exchangeReply_of_agrees hm]
  rfl

theorem exchanged_rdid_wire {s : State} (hm : mismatched s = false) (hx : (nextChoice s).xferFails = false) :
    (exchanged .rdid s).wire = .xfer .rdid [0x9F] 3 (some (rdidAnswer (nextChoice s) s.chip)) :: s.wire := by
  rw [exchanged_wire, exchangeResult_some.2 ⟨hx, rfl⟩, exchangeReply_of_agrees hm]
  rfl

theorem resume_rdid_unknown {code : List Byte} {s : State} (hp : s.phase = .identify)
    (hr : resolve s.params.registry code = none) : (resume .rdid code s).phase = .closeLink (.unknownDevice code) := by
  simp [resume, hp, identified, hr]

/-- Settles O22, by who sends the frame: the block over its link, or the outside directly. -/
theorem rdidReturnsCode : Obligations.RdidReturnsCode := by
  unfold Obligations.RdidReturnsCode
  intro s hid hlink
  refine ⟨_, rdidAnswer (nextChoice s) s.chip, exec_commandInstr .rdid s, ?_⟩
  cases hh : s.handle with
  | none =>
    rw [sendCommand_direct hh]
    exact ⟨chipReceives_rdid _ _, rdidAnswer_code hid, rdidAnswer_busy, nofun, fun _ => ⟨rfl, rfl⟩, nofun⟩
  | _ =>
    obtain ⟨hd, hx⟩ := hlink hh
    have hm : mismatched s = false := mismatched_eq_false.2 hd
    rw [sendCommand_rdid hh hm hx]
    refine ⟨?_, rdidAnswer_code hid, rdidAnswer_busy, fun _ => ?_, nofun, fun _ hp hr => ?_⟩
    · rw [(resume_sameLink _ _ _).chip, exchanged_chip, exchangeChip_of_agrees hm hx, chipReceives_rdid]
    · rw [(resume_sameLink _ _ _).wire, exchanged_rdid_wire hm hx]
    · exact resume_rdid_unknown hp hr

end Sys2Proof.Machine
end

section
/-! The commands of the codec in the block: what they leave unchanged (41_codec.md R151-R160, 10_state.md R45), a mutating
command of a job (R165-R167, R172), and WaitReady on a chip that stays busy (R170, R171). -/

namespace Sys2Proof.Machine

/-! ### What a command leaves unchanged -/

/-- With no operation in flight the session takes no result but the byte of a status read (10_state.md R45). -/
theorem resume_idle {cmd : Command} {r : List Byte} {s : State} (hp : s.phase = .idle) :
    resume cmd r s = s ∨ (cmd = .rdsr ∧ ∃ d b, resume cmd r s = recordStatus d b s) := by
  cases cmd with
  | rdsr =>
    cases hd : s.desc with
    | none => exact .inl (by simp only [resume, hd])
    | some d => exact .inr ⟨rfl, d, r.headD 0, by simp only [resume, hd, statusRead, hp]⟩
  | rdid => exact .inl (by simp [resume, hp])
  | wrdi => exact .inl rfl
  | wren => exact .inl (by simp only [resume, enabled, hp])
  | wrsr | se | be | pp => exact .inl (by simp only [resume, mutationSent, hp])
  | readData => exact .inl (by simp only [resume, gathered, hp])

theorem abandon_idle {s : State} (hp : s.phase = .idle) : abandon s = s := by
  simp only [abandon, hp]

/-- `t` differs from `s` in neither the position, the working registers nor the response. -/
structure SameOperation (s t : State) : Prop where
  seq : t.seq = s.seq
  phase : t.phase = s.phase
  addr : t.addr = s.addr
  done : t.done = s.done
  polls : t.polls = s.polls
  cur : t.cur = s.cur
  acc : t.acc = s.acc
  mutated : t.mutated = s.mutated
  response : t.response = s.response
  responsePending : t.responsePending = s.responsePending

/-- A command sent over the link with no operation in flight. -/
theorem sendCommand_idle_sameOperation {cmd : Command} {s : State} (hh : s.handle = .open) (hp : s.phase = .idle) :
    SameOperation s (sendCommand cmd s)
      ∧ (cmd ≠ .rdsr →
          (sendCommand cmd s).lastStatus = s.lastStatus ∧ (sendCommand cmd s).lockStatus = s.lockStatus) := by
  cases hx : (nextChoice s).xferFails
  · rw [sendCommand_answered hh hx]
    rcases resume_idle (cmd := cmd) (r := exchangeReply (nextChoice s) cmd s) (s := exchanged cmd s) hp with
      e | ⟨hc, d, b, e⟩ <;> rw [e]
    · exact ⟨by constructor <;> rfl, fun _ => ⟨rfl, rfl⟩⟩
    · exact ⟨by constructor <;> rfl, absurd hc⟩
  · rw [sendCommand_failed hh hx, abandon_idle (s := exchanged cmd s) hp]
    exact ⟨by constructor <;> rfl, fun _ => ⟨rfl, rfl⟩⟩

/-- A command sent over the link leaves all but the position, the chip and the wire to its exchange. -/
theorem sendCommand_open_sameLink {cmd : Command} {s : State} (hh : s.handle = .open) :
    SameLink (exchanged cmd s) (sendCommand cmd s) := by
  cases hx : (nextChoice s).xferFails
  · rw [sendCommand_answered hh hx]; exact resume_sameLink _ _ _
  · rw [sendCommand_failed hh hx]; exact abandon_sameLink _

/-- Settles O33: a command driven directly writes the direct reply alone, one sent over the link what its exchange and
the session's use of the answer write. -/
theorem commandFrame : Obligations.CommandFrame := by
  unfold Obligations.CommandFrame
  intro cmd s t h
  rw [exec_commandInstr] at h
  injection h with h
  subst h
  cases hh : s.handle with
  | none =>
    rw [sendCommand_direct hh]
    exact ⟨rfl, rfl, rfl, rfl, hh, rfl, rfl, rfl, rfl, fun _ => rfl, nofun,
      fun _ => ⟨rfl, rfl, rfl, rfl, rfl, rfl, rfl, rfl, rfl, rfl, fun _ => ⟨rfl, rfl⟩⟩⟩
  | _ =>
    have hl : SameLink (exchanged cmd s) (sendCommand cmd s) := sendCommand_open_sameLink hh
    refine ⟨hl.params, hl.req, hl.desc, hl.timeoutPolls, hl.handle.trans hh, hl.clockHz, hl.inbox, hl.delivered, hl.port,
      nofun, fun _ => hl.probeReply, fun h => ?_⟩
    obtain ⟨ho, hstatus⟩ := sendCommand_idle_sameOperation (cmd := cmd) hh (h.resolve_left nofun)
    exact ⟨ho.seq, ho.phase, ho.addr, ho.done, ho.polls, ho.cur, ho.acc, ho.mutated, ho.response, ho.responsePending,
      fun hn => hstatus (hn.resolve_left nofun)⟩

/-! ### A mutating command of a job -/

/-- The exchange of a command that asks no response byte, on the device the block is linked to. -/
theorem exchanged_linked {cmd : Command} {s : State} {d : Descriptor} (h : linkedTo d s) (hb : s.chip.busy = false)
    (hr : responseLength cmd = 0) :
    exchanged cmd s =
      { s with
        chip := chipCommand (nextChoice s) d cmd s.chip
        wire := .xfer cmd (encodeFrame d.ops cmd) 0 (some []) :: s.wire
        oracle := s.oracle.tail, draws := s.draws + 1 } := by
  obtain ⟨-, hd, hg, hx⟩ := h
  have hreply : exchangeResult (nextChoice s) cmd s = some [] :=
    exchangeResult_some.2 ⟨hx, by rw [exchangeReply_of_geom hd hg, hr]; rfl⟩
  have hchip : exchangeChip (nextChoice s) cmd s = chipCommand (nextChoice s) d cmd s.chip := by
    rw [exchangeChip_of_geom hd hg hx, chipSettle_of_idle hb]
  have hops : opcodesOf s = d.ops := by simp [opcodesOf, hd]
  simp only [exchanged, spend, hreply, hchip, hops, hr]

theorem responseLength_jobFrame (d : Descriptor) (j : Job) (s : State) : responseLength (jobFrame d j s) = 0 := by
  cases j <;> rfl

theorem resume_jobFrame {d : Descriptor} {j : Job} {r : List Byte} {s u : State} :
    resume (jobFrame d j u) r s = mutationSent s := by
  cases j <;> rfl

theorem enabled_writeEnable {s : State} {j : Job} (hp : s.phase = .writeEnable j) :
    enabled s = { s with phase := .mutate j } := by
  simp only [enabled, hp]

theorem mutationSent_mutate {s : State} {j : Job} (hp : s.phase = .mutate j) :
    mutationSent s = { s with mutated := true, polls := 0, phase := .waitDone j } := by
  simp only [mutationSent, hp]

/-- Settles O39: each of the two steps is one exchange and the move to the next position. -/
theorem mutatingCommandSequence : Obligations.MutatingCommandSequence := by
  unfold Obligations.MutatingCommandSequence
  intro s d j h hb
  have hd : s.desc = some d := h.2.1
  refine ⟨fun hp => ?_, fun hp => ⟨jobFrame d j s, chipCommand (nextChoice s) d (jobFrame d j s) s.chip, ?_, ?_⟩⟩
  · have hchip : chipCommand (nextChoice s) d .wren s.chip = { s.chip with wel := true } := by simp [chipCommand, hb]
    rw [step_command (cmd := .wren) (by simp [commandInFlight, hp, hd]), sendCommand_answered h.1 h.2.2.2, resume,
      enabled_writeEnable (s := exchanged .wren s) hp, exchanged_linked h hb rfl, hchip]
    rfl
  · rw [step_command (cmd := jobFrame d j s) (by simp [commandInFlight, hp, hd]), sendCommand_answered h.1 h.2.2.2,
      resume_jobFrame, mutationSent_mutate (s := exchanged (jobFrame d j s) s) hp,
      exchanged_linked h hb (responseLength_jobFrame d j s)]
  · cases j <;> rfl

/-! ### WaitReady on a chip that stays busy -/

/-- The block waits in the WaitReady of job `j`, attached to device `d`, and the chip is busy. -/
structure WaitsBusy (d : Descriptor) (j : Job) (s : State) : Prop where
  waits : s.phase = .waitIdle j ∨ s.phase = .waitDone j
  handle : s.handle = .open
  desc : s.desc = some d
  geom : s.chip.geom = some d
  mask : d.bpMask &&& 1 = 0
  busy : s.chip.busy = true

/-- A choice by which an exchange with a busy chip succeeds and finds it busy. -/
def staysBusy (c : Choice) : Prop := c.xferFails = false ∧ c.completes = false

/-- The status byte the block reads. -/
def busyByte (d : Descriptor) (s : State) : Byte := statusByte (nextChoice s) d s.chip

/-- The state that has counted the busy read. -/
def busyRead (d : Descriptor) (s : State) : State :=
  { statusTaken d (busyByte d s) s with cur := busyByte d s, polls := s.polls + 1 }

section
variable {d : Descriptor} {j : Job} {s : State}

theorem WaitsBusy.congr {t : State} (h : WaitsBusy d j s) (e1 : t.phase = s.phase) (e2 : t.handle = s.handle)
    (e3 : t.desc = s.desc) (e4 : t.chip = s.chip) : WaitsBusy d j t :=
  ⟨by rw [e1]; exact h.waits, e2.trans h.handle, e3.trans h.desc, by rw [e4]; exact h.geom, h.mask,
    by rw [e4]; exact h.busy⟩

theorem WaitsBusy.statusBusy_busyByte (h : WaitsBusy d j s) : statusBusy (busyByte d s) = true :=
  (statusByte_busy h.mask).trans h.busy

/-- A turn of the loop: the status byte is busy, so what follows an idle one does not matter. -/
theorem WaitsBusy.step_pollTurn (h : WaitsBusy d j s) (hc : staysBusy (nextChoice s)) :
    ∃ ready, step s = .next (pollTurn j (busyByte d s) ready (statusTaken d (busyByte d s) s)) := by
  have hl : linkedTo d s := ⟨h.handle, h.desc, h.geom, hc.1⟩
  rcases h.waits with hp | hp
  · rw [step_waitIdle hp hl, chipSettle_of_stays hc.2]; exact ⟨_, rfl⟩
  · rw [step_waitDone hp hl, chipSettle_of_stays hc.2]; exact ⟨_, rfl⟩

/-- Within the budget the block goes on polling (R170). -/
theorem WaitsBusy.step_polls (h : WaitsBusy d j s) (hc : staysBusy (nextChoice s))
    (hn : budgetSpent s.timeoutPolls (s.polls + 1) = false) : step s = .next (busyRead d s) := by
  obtain ⟨ready, hs⟩ := h.step_pollTurn hc
  rw [hs, pollTurn_busy (s := statusTaken d (busyByte d s) s) h.statusBusy_busyByte hn]
  rfl

/-- The read that uses up the budget raises Timeout (R171). -/
theorem WaitsBusy.step_timeout (h : WaitsBusy d j s) (hc : staysBusy (nextChoice s))
    (hn : budgetSpent s.timeoutPolls (s.polls + 1) = true) :
    step s = .next (raiseError (.timeout (busyByte d s) (committed j s)) (busyRead d s)) := by
  obtain ⟨ready, hs⟩ := h.step_pollTurn hc
  rw [hs, pollTurn_timeout (s := statusTaken d (busyByte d s) s) h.statusBusy_busyByte hn]
  cases j <;> rfl

theorem WaitsBusy.busyRead_chip (h : WaitsBusy d j s) (hc : staysBusy (nextChoice s)) :
    (busyRead d s).chip = s.chip := by
  show exchangeChip (nextChoice s) .rdsr s = s.chip
  rw [exchangeChip_of_geom h.desc h.geom hc.1, chipSettle_of_stays hc.2]
  rfl

theorem WaitsBusy.busyRead_wire (h : WaitsBusy d j s) (hc : staysBusy (nextChoice s)) :
    (busyRead d s).wire = .xfer .rdsr [0x05] 1 (some [busyByte d s]) :: s.wire := by
  show (exchanged .rdsr s).wire = _
  rw [exchanged_rdsr_wire (exchangeResult_some.2 ⟨hc.1, rfl⟩), exchangeReply_rdsr h.desc h.geom,
    chipSettle_of_stays hc.2]
  rfl

end

theorem budgetSpent_eq_false {b : Option Nat} {k : Nat} (h : ∀ n, b = some n → k < n) : budgetSpent b k = false := by
  cases b with
  | none => rfl
  | some n => simpa [budgetSpent] using h n rfl

/-- Settles O35: the turn of the loop within the budget. -/
theorem busyStatusKeepsPolling : Obligations.BusyStatusKeepsPolling := by
  unfold Obligations.BusyStatusKeepsPolling
  intro s d j hp ⟨hh, hd, hg, hx⟩ hmask hbusy hstays hbudget
  have h : WaitsBusy d j s := ⟨hp, hh, hd, hg, hmask, hbusy⟩
  have hc : staysBusy (nextChoice s) := ⟨hx, hstays⟩
  exact ⟨busyRead d s, busyByte d s, h.step_polls hc (budgetSpent_eq_false hbudget), rfl, rfl, rfl,
    h.statusBusy_busyByte, rfl, rfl, h.busyRead_wire hc, h.busyRead_chip hc, rfl⟩

/-! ### The whole budget -/

/-- The oracle holds a choice for each of the next `k` exchanges, and all it holds leave the chip busy. -/
def staysBusyFor (k : Nat) (oracle : List Choice) : Prop := k ≤ oracle.length ∧ ∀ c ∈ oracle, staysBusy c

theorem nextChoice_of_staysBusyFor {k : Nat} {s : State} (h : staysBusyFor (k + 1) s.oracle) :
    staysBusy (nextChoice s) ∧ staysBusyFor k s.oracle.tail := by
  obtain ⟨hlen, hall⟩ := h
  cases ho : s.oracle with
  | nil => rw [ho] at hlen; cases hlen
  | cons c cs =>
    rw [ho] at hlen hall
    have hnext : nextChoice s = c := by simp only [nextChoice, ho]
    rw [hnext]
    exact ⟨hall c List.mem_cons_self, Nat.le_of_succ_le_succ hlen, fun c' hc' => hall c' (List.mem_cons_of_mem c hc')⟩

/-- `t` is where the WaitReady that starts in `s` stands after `m` busy reads, with choices for `k` more. -/
structure BusyReads (s : State) (m k : Nat) (t : State) : Prop where
  phase : t.phase = s.phase
  seq : t.seq = s.seq
  handle : t.handle = s.handle
  desc : t.desc = s.desc
  chip : t.chip = s.chip
  timeoutPolls : t.timeoutPolls = s.timeoutPolls
  done : t.done = s.done
  polls : t.polls = m
  oracle : staysBusyFor k t.oracle
  reads : ∃ es, t.wire = es ++ s.wire ∧ es.length = m ∧ ∀ e ∈ es, isStatusRead e = true

section
variable {d : Descriptor} {j : Job} {s t : State} {m k : Nat}

theorem BusyReads.waitsBusy (hr : BusyReads s m k t) (h : WaitsBusy d j s) : WaitsBusy d j t :=
  h.congr hr.phase hr.handle hr.desc hr.chip

/-- One more busy read. -/
theorem BusyReads.succ (hr : BusyReads s m (k + 1) t) (h : WaitsBusy d j s) :
    BusyReads s (m + 1) k (busyRead d t) := by
  obtain ⟨hc, hrest⟩ := nextChoice_of_staysBusyFor hr.oracle
  have ht : WaitsBusy d j t := hr.waitsBusy h
  obtain ⟨es, hw, hlen, hes⟩ := hr.reads
  refine ⟨hr.phase, hr.seq, hr.handle, hr.desc, (ht.busyRead_chip hc).trans hr.chip, hr.timeoutPolls, hr.done,
    congrArg (· + 1) hr.polls, hrest, .xfer .rdsr [0x05] 1 (some [busyByte d t]) :: es, ?_, congrArg (· + 1) hlen,
    List.forall_mem_cons.2 ⟨rfl, hes⟩⟩
  rw [ht.busyRead_wire hc, hw]
  rfl

/-- Before the budget is used up the block is still polling. -/
theorem WaitsBusy.busyReads_of_lt {N : Nat} (h : WaitsBusy d j s) (hpolls : s.polls = 0) (hN : s.timeoutPolls = some N)
    (ho : staysBusyFor N s.oracle) (hm : m < N) : ∃ t, afterSteps m s = some t ∧ BusyReads s m (N - m) t := by
  induction m with
  | zero => exact ⟨s, rfl, rfl, rfl, rfl, rfl, rfl, rfl, rfl, hpolls, ho, [], rfl, rfl, nofun⟩
  | succ m ih =>
    obtain ⟨t, hrun, hr⟩ := ih (Nat.lt_of_succ_lt hm)
    rw [show N - m = N - (m + 1) + 1 by omega] at hr
    have hbudget : budgetSpent t.timeoutPolls (t.polls + 1) = false := by
      rw [hr.timeoutPolls, hr.polls, hN]; simpa [budgetSpent] using hm
    have hstep := (hr.waitsBusy h).step_polls (nextChoice_of_staysBusyFor hr.oracle).1 hbudget
    exact ⟨_, afterSteps_snoc hrun hstep, hr.succ h⟩

end

theorem committed_eq (j : Job) (s : State) : committed j s = if j = .write then some s.done else none := by
  cases j <;> rfl

/-- Settles O36, by induction on the reads made; the last one uses up the budget. -/
theorem timeoutAfterExactlyBudgetReads : Obligations.TimeoutAfterExactlyBudgetReads := by
  unfold Obligations.TimeoutAfterExactlyBudgetReads
  intro s d j N hp hh hd hg hmask hbusy hq hpolls hN hpos hlen hall
  have h : WaitsBusy d j s := ⟨hp, hh, hd, hg, hmask, hbusy⟩
  have hrun {m : Nat} (hm : m < N) := h.busyReads_of_lt hpolls hN ⟨hlen, hall⟩ hm
  refine ⟨fun m hm => ?_, ?_⟩
  · obtain ⟨t, ht, hr⟩ := hrun hm
    exact ⟨t, ht, hr.phase, hr.polls⟩
  · obtain ⟨M, rfl⟩ := Nat.exists_eq_add_of_le' hpos
    obtain ⟨u, hu, hr⟩ := hrun (Nat.lt_succ_self M)
    rw [Nat.add_sub_cancel_left] at hr
    have hbudget : budgetSpent u.timeoutPolls (u.polls + 1) = true := by
      rw [hr.timeoutPolls, hr.polls, hN]; simp [budgetSpent]
    have hw := hr.waitsBusy h
    have hstep := hw.step_timeout (nextChoice_of_staysBusyFor hr.oracle).1 hbudget
    obtain ⟨es, hwire, hcount, hreads⟩ := (hr.succ h).reads
    refine ⟨_, busyByte d u, afterSteps_snoc hu hstep, hw.statusBusy_busyByte, ?_, rfl, ?_, rfl, ?_, ?_⟩
    · rw [raiseError_response, committed_eq, hr.done]
    · show seqAfterError u.seq = .ready
      rw [hr.seq, hq, seqAfterError_jobSeq]
    · rw [raiseError_wire, hwire, List.length_append, hcount, Nat.add_comm]
    · rw [raiseError_wire, hwire, ← hcount, List.take_left]
      exact hreads

end Sys2Proof.Machine
end

section
/-! The session's requests (42_session_control.md): which are held, refused or accepted (R190), and what ATTACH, the
queries, STATUS, SET_TIMEOUT and RELEASE do in the step that accepts them (R192-R199). -/

namespace Sys2Proof.Machine

/-! ### Held, refused, accepted -/

/-- A block that may not accept now. -/
theorem accepting_eq_false {s : State} : accepting s = false ↔ seqAccepts s.seq = false ∨ s.responsePending = true := by
  rw [accepting, Bool.and_eq_false_iff, Bool.not_eq_false']

/-- The lists of states of R190. -/
theorem acceptedIn_cases {i : Instr} {states : List Seq} (h : acceptedIn i = some states) :
    states = [.unattached] ∨ states = [.unattached, .ready] ∨ states = [.ready] := by
  cases i <;> cases h <;> simp

/-- A state listed for a request is one in which requests are accepted (30_encoding.md R105). -/
theorem seqAccepts_of_mem {i : Instr} {states : List Seq} {q : Seq} (h : acceptedIn i = some states) (hq : q ∈ states) :
    seqAccepts q = true := by
  rcases acceptedIn_cases h with rfl | rfl | rfl <;> revert q <;> decide

/-- A released block accepts no request. -/
theorem released_not_mem {i : Instr} {states : List Seq} (h : acceptedIn i = some states) : Seq.released ∉ states := by
  rcases acceptedIn_cases h with rfl | rfl | rfl <;> decide

/-- A request the block may not accept now goes back to the head of the caller's queue (30_encoding.md R105). -/
theorem exec_held {i : Instr} {s : State} (hi : acceptedIn i ≠ none) (ha : accepting s = false) :
    exec i s = .next (hold (portRecord i s) s) := by
  obtain ⟨states, hs⟩ := Option.ne_none_iff_exists'.1 hi
  obtain ⟨begin, hb⟩ := exec_presents hs
  rw [hb, present_held ha]

/-- A request in a state not listed for it is answered `WrongState` (R190). -/
theorem exec_wrongState {i : Instr} {states : List Seq} {s : State} (hi : acceptedIn i = some states)
    (ha : accepting s = true) (hq : s.seq ∉ states) : exec i s = .next (refuseRequest .wrongState s) := by
  obtain ⟨begin, hb⟩ := exec_presents hi
  rw [hb, present_wrongState ha (decide_eq_false hq)]

/-- Settles O8: what is done with a request is decided by whether the block may accept one, and by its state. -/
theorem acceptanceFollowsState : Obligations.AcceptanceFollowsState := by
  unfold Obligations.AcceptanceFollowsState
  intro i states s hi
  refine ⟨fun h => ?_, fun hq hr hn => ?_, fun r rest hp hr hb hd hq hds => ?_⟩
  · rw [exec_held (by simp [hi]) (accepting_eq_false.2 h)]; rfl
  · rw [exec_wrongState hi (accepting_iff.2 ⟨hq, hr⟩) hn]; rfl
  · have ha : accepting s = true := accepting_iff.2 ⟨seqAccepts_of_mem hi hq, hr⟩
    obtain ⟨t, ht, hreq⟩ := exec_latches (s := putOnPort r { s with inbox := rest }) hi ha hq hds
    rw [portRecord_of_decode hd] at hreq
    exact ⟨t, (step_decoded hp hr hb hd).trans ht, hreq⟩

/-! ### Requests that end in the step that accepts them -/

theorem accepting_of_control {s : State} (hq : s.seq = .unattached ∨ s.seq = .ready) (hr : s.responsePending = false) :
    accepting s = true :=
  accepting_iff.2 ⟨by rcases hq with hq | hq <;> rw [hq] <;> rfl, hr⟩

/-- RELEASE and SET_TIMEOUT, in a state that accepts them. -/
theorem present_control {r : Request} {begin : State → Outcome} {s : State}
    (hq : s.seq = .unattached ∨ s.seq = .ready) (hr : s.responsePending = false) :
    present r admitsControl begin s = begin (accept r s) :=
  present_accepted (accepting_of_control hq hr) (admitsControl_iff.2 hq)

/-- Success outside an operation in flight leaves `seq` where it was. -/
theorem seqAfterSuccess_of_control {q : Seq} (hq : q = .unattached ∨ q = .ready) : seqAfterSuccess q = q := by
  rcases hq with rfl | rfl <;> rfl

theorem succeed_of_control {v : Value} {s : State} (hq : s.seq = .unattached ∨ s.seq = .ready) :
    succeed v s = respond (.ok v) s := by
  rw [succeed, seqAfterSuccess_of_control hq]

/-- Settles O10: of the block only the request registers, `seq` and the position change, since no response was pending. -/
theorem attachAccepted : Obligations.AttachAccepted := by
  unfold Obligations.AttachAccepted
  intro s vid pid ifidx hq hr
  rw [exec, execAttach, present_accepted (accepting_of_control (.inl hq) hr) (admitsAttach_iff.2 hq)]
  simp only [accept, latched_attach, hr]

/-- Settles O16: a success in either state that accepts SET_TIMEOUT leaves `seq` alone. -/
theorem setTimeoutWritesBudget : Obligations.SetTimeoutWritesBudget := by
  unfold Obligations.SetTimeoutWritesBudget
  intro s v hq hr
  rw [exec, execSetTimeout, present_control hq hr, succeed_of_control (by exact hq)]
  rfl

/-- Settles O13: with the link or without it RELEASE ends in a state listed for no request. -/
theorem releaseEndsSession : Obligations.ReleaseEndsSession := by
  unfold Obligations.ReleaseEndsSession
  refine ⟨fun s hq hr => ?_, fun s hq hr => ?_, fun i s hi hq hr => ?_⟩
  · rw [exec, execRelease, present_control (.inr hq) hr, if_pos (by exact hq)]
    rfl
  · rw [exec, execRelease, present_control (.inl hq) hr, if_neg (by simp [hq])]
    rfl
  · obtain ⟨states, hs⟩ := Option.ne_none_iff_exists'.1 hi
    have ha : accepting s = true := accepting_iff.2 ⟨by rw [hq]; rfl, hr⟩
    exact ⟨_, exec_wrongState hs ha (by rw [hq]; exact released_not_mem hs), hq, rfl, rfl⟩

theorem exec_frequency_ready {s : State} {d : Descriptor} (h : readyWith d s) :
    exec .frequency s = .next (succeed (.clock s.clockHz) (accept (portRecord .frequency s) s)) := by
  obtain ⟨hq, hr, -⟩ := h
  rw [exec, execFrequency, present_accepted (accepting_of_control (.inr hq) hr) (admitsSession_iff.2 hq)]
  rfl

/-- The three capability bits (R197). -/
theorem flagsValue_bits (d : Descriptor) :
    (flagsValue d).getLsbD 0 = d.supportsBulk ∧ (flagsValue d).getLsbD 1 = d.supportsLock
      ∧ (flagsValue d).getLsbD 2 = d.slowProgram := by
  unfold flagsValue
  generalize d.supportsBulk = b, d.supportsLock = l, d.slowProgram = p
  revert b l p
  decide

/-- Settles O14, query by query. -/
theorem queriesAnswer : Obligations.QueriesAnswer := by
  unfold Obligations.QueriesAnswer
  intro s d h
  refine ⟨fun i op v hi => ?_, flagsValue_bits d⟩
  have hq : s.seq = .ready := h.1
  have hanswer (v : Value) (r : Request) : succeed v (accept r s) = respond (.ok v) (accept r s) :=
    succeed_of_control (.inr hq)
  simp only [List.mem_cons, List.not_mem_nil, or_false, Prod.mk.injEq] at hi
  rcases hi with ⟨rfl, rfl, rfl⟩ | ⟨rfl, rfl, rfl⟩ | ⟨rfl, rfl, rfl⟩ | ⟨rfl, rfl, rfl⟩
  · rw [exec, execSize, present_ready h, hanswer]; rfl
  · rw [exec, execName, present_ready h, hanswer]; rfl
  · rw [exec_frequency_ready h, hanswer]; rfl
  · rw [exec, execFlags, present_ready h, hanswer]; rfl

/-! ### STATUS -/

theorem statusExchange_answered {d : Descriptor} {s : State} {b : Byte} (hx : (nextChoice s).xferFails = false)
    (hb : exchangeReply (nextChoice s) .rdsr s = [b]) :
    statusExchange d s = succeed (.status b) (recordStatus d b (exchanged .rdsr s)) := by
  rw [statusExchange, exchangeResult_some.2 ⟨hx, hb.symm⟩]
  rfl

theorem statusExchange_failed {d : Descriptor} {s : State} (hx : (nextChoice s).xferFails = true) :
    statusExchange d s = raiseError (.transportError .exchange none) (exchanged .rdsr s) := by
  rw [statusExchange, exchangeResult_none.2 hx]

/-- Settles O15, by whether the one exchange succeeds. -/
theorem statusReadsOnce : Obligations.StatusReadsOnce := by
  unfold Obligations.StatusReadsOnce
  intro s d h
  have hq : s.seq = .ready := h.1
  have hseq : (statusExchange d (accept (portRecord .status s) s)).seq = .ready := statusExchange_seq (s := accept _ s) hq
  refine ⟨fun hx => ?_, fun hx => ?_⟩
  · obtain ⟨b, hb⟩ := List.length_eq_one_iff.1 (exchangeReply_length (nextChoice s) .rdsr s)
    have hwire := exchanged_rdsr_wire (s := accept (portRecord .status s) s) (exchangeResult_some.2 ⟨hx, hb.symm⟩)
    refine ⟨_, b, exec_status_ready h, hb, hseq, ?_⟩
    rw [statusExchange_answered (s := accept _ s) hx hb]
    exact ⟨rfl, rfl, rfl, lockOf_eq _ _, hwire⟩
  · have hnone : exchangeResult (nextChoice s) .rdsr s = none := exchangeResult_none.2 hx
    refine ⟨_, exec_status_ready h, hseq, ?_⟩
    rw [statusExchange_failed (s := accept _ s) hx]
    exact ⟨rfl, rfl, rfl, rfl, congrArg (WireEvent.xfer .rdsr [0x05] 1 · :: s.wire) hnone⟩

end Sys2Proof.Machine
end

section
/-! The run of an accepted ATTACH (42_session_control.md R192): what each of its steps leaves, its success and its failure
exits (R200). -/

namespace Sys2Proof.Machine

/-! ### The steps -/

theorem step_setIdentClock {s : State} (hp : s.phase = .identClock) : step s = .next (setIdentClock s) := by
  rw [step, sequencer, hp]

theorem step_finishAttach {s : State} {d : Descriptor} (hp : s.phase = .deviceClock d) :
    step s = .next (finishAttach d s) := by
  rw [step, sequencer, hp]

theorem step_closeFailed {s : State} {e : ErrorRecord} (hp : s.phase = .closeLink e) :
    step s = .next (closeFailed e s) := by
  rw [step, sequencer, hp]

/-- The chip an `Open` that succeeds finds (44_flash_device_model.md R268). -/
def chipFound (c : Choice) (s : State) : Chip :=
  if c.keepsArray then { Chip.drawn s.params.registry c with mem := s.chip.mem, epoch := s.chip.epoch }
  else Chip.drawn s.params.registry c

theorem chipFound_id (c : Choice) (s : State) : (chipFound c s).id = [c.id0, c.id1, c.id2] := by
  unfold chipFound; split <;> rfl

theorem chipFound_busy (c : Choice) (s : State) : (chipFound c s).busy = c.busy := by
  unfold chipFound; split <;> rfl

/-- The state an `Open` that succeeds leaves. -/
def linkOpened (s : State) : State :=
  { recordWire (.open s.req.vid s.req.pid s.req.ifidx true) (spend s) with
    handle := .open, phase := .identClock, chip := chipFound (nextChoice s) s }

theorem step_openLink_opens {s : State} (hp : s.phase = .openLink) (ho : (nextChoice s).openFails = false) :
    step s = .next (linkOpened s) := by
  rw [step, sequencer, hp]
  simp only [openLink, ho]
  rfl

/-- A failed `Open` ends the ATTACH (R192). -/
theorem step_openLink_fails {s : State} (hp : s.phase = .openLink) (ho : (nextChoice s).openFails = true) :
    step s = .next (raiseError (.transportError .open none)
      (recordWire (.open s.req.vid s.req.pid s.req.ifidx false) (spend s))) := by
  rw [step, sequencer, hp]
  simp only [openLink, ho]
  rfl

theorem step_identify {s : State} (hp : s.phase = .identify) : step s = .next (sendCommand .rdid s) :=
  step_command (by simp [commandInFlight, hp])

/-- An answered RDID is looked up in the registry (40_registry.md R142). -/
theorem step_identify_answered {s : State} {code : List Byte} (hp : s.phase = .identify) (hh : s.handle = .open)
    (hr : exchangeResult (nextChoice s) .rdid s = some code) :
    step s = .next (identified code (exchanged .rdid s)) := by
  obtain ⟨hx, rfl⟩ := exchangeResult_some.1 hr
  rw [step_identify hp, sendCommand_answered hh hx, resume, if_pos (by exact hp)]

theorem identified_known {code : List Byte} {s : State} {d : Descriptor} (h : resolve s.params.registry code = some d) :
    identified code s = { s with phase := .deviceClock d } := by
  rw [identified, h]

theorem identified_unknown {code : List Byte} {s : State} (h : resolve s.params.registry code = none) :
    identified code s = { s with phase := .closeLink (.unknownDevice code) } := by
  rw [identified, h]

theorem step_identify_known {s : State} {code : List Byte} {d : Descriptor} (hp : s.phase = .identify)
    (hh : s.handle = .open) (hr : exchangeResult (nextChoice s) .rdid s = some code)
    (hd : resolve s.params.registry code = some d) :
    step s = .next { exchanged .rdid s with phase := .deviceClock d } := by
  rw [step_identify_answered hp hh hr, identified_known (s := exchanged .rdid s) hd]

theorem step_identify_unknown {s : State} {code : List Byte} (hp : s.phase = .identify)
    (hh : s.handle = .open) (hr : exchangeResult (nextChoice s) .rdid s = some code)
    (hd : resolve s.params.registry code = none) :
    step s = .next { exchanged .rdid s with phase := .closeLink (.unknownDevice code) } := by
  rw [step_identify_answered hp hh hr, identified_unknown (s := exchanged .rdid s) hd]

theorem step_identify_failed {s : State} (hp : s.phase = .identify) (hh : s.handle = .open)
    (hx : (nextChoice s).xferFails = true) :
    step s = .next { exchanged .rdid s with phase := .closeLink (.transportError .exchange none) } := by
  rw [step_identify hp, sendCommand_failed hh hx, abandon, exchanged_phase, hp]

/-! ### The exits -/

/-- Settles O12: a failed Open has no link to close, and the two ways RDID fails lead to the Close. -/
theorem attachFailureClosesLink : Obligations.AttachFailureClosesLink := by
  unfold Obligations.AttachFailureClosesLink
  have hseq {s : State} (hq : s.seq = .identifying) : seqAfterError s.seq = .unattached := by rw [hq]; rfl
  refine ⟨fun s hp hq hh ho => ⟨_, step_openLink_fails hp ho, hh, hseq hq, rfl, rfl, rfl⟩,
    fun s hp hh hx => ⟨_, step_identify_failed hp hh hx, rfl, rfl⟩,
    fun s hp hh hx hr => ⟨_, step_identify_unknown hp hh (exchangeResult_some.2 ⟨hx, rfl⟩) hr, rfl, rfl⟩,
    fun s e hp hq => ⟨_, step_closeFailed hp, rfl, hseq hq, rfl, rfl, rfl, rfl, rfl⟩⟩

/-- An idle chip answers the RDID of an ATTACH with its code (44_flash_device_model.md R252). -/
theorem exchangeResult_rdid_idle {c : Choice} {s : State} (hd : s.desc = none) (hid : s.chip.id.length = 3)
    (hb : s.chip.busy = false) (hx : c.xferFails = false) : exchangeResult c .rdid s = some s.chip.id := by
  have hm : mismatched s = false := mismatched_eq_false.2 (.inl hd)
  rw [exchangeResult_some, exchangeReply_of_agrees hm]
  exact ⟨hx, (rdidAnswer_code hid (.inl hb)).symm⟩

/-- Settles O11: the run is `Open`, `SetClock`, RDID, `SetClock`, and RDID finds the code of the chip the `Open` drew. -/
theorem attachSucceeds : Obligations.AttachSucceeds := by
  unfold Obligations.AttachSucceeds
  intro s c0 c1 rest d hp _ hd ho hopen hbusy hx hr
  have hc0 : nextChoice s = c0 := by rw [nextChoice, ho]
  have hc1 : nextChoice (setIdentClock (linkOpened s)) = c1 := by
    show nextChoice (spend s) = c1
    rw [nextChoice, spend_oracle, ho, List.tail_cons]
  have hid : (chipFound (nextChoice s) s).id = [c0.id0, c0.id1, c0.id2] := by rw [chipFound_id, hc0]
  have hidle : (chipFound (nextChoice s) s).busy = false := by rw [chipFound_busy, hc0, hbusy]
  have hcode : exchangeResult (nextChoice (setIdentClock (linkOpened s))) .rdid (setIdentClock (linkOpened s))
      = some [c0.id0, c0.id1, c0.id2] := by
    rw [← hid]
    exact exchangeResult_rdid_idle hd (congrArg List.length hid) hidle (by rw [hc1, hx])
  have hrun : afterSteps 4 s = some (finishAttach d
      { exchanged .rdid (setIdentClock (linkOpened s)) with phase := .deviceClock d }) := by
    rw [afterSteps_succ (step_openLink_opens hp (by rw [hc0, hopen])), afterSteps_succ (step_setIdentClock rfl),
      afterSteps_succ (step_identify_known rfl rfl hcode hr), afterSteps_succ (step_finishAttach rfl)]
    rfl
  refine ⟨_, deviceClock s.params d, hrun, fun h => ?_, fun cap h => ?_, rfl, rfl, rfl, rfl, rfl, rfl, rfl, rfl, ?_⟩
  · rw [deviceClock, h]
  · rw [deviceClock, h]
  · exact congrArg (fun r => [.setClock (deviceClock s.params d), .xfer .rdid [0x9F] 3 r,
      .setClock s.params.identClockHz, .open s.req.vid s.req.pid s.req.ifidx true] ++ s.wire) hcode

end Sys2Proof.Machine
end

section
/-! What a request leaves unchanged in the step in which it is accepted, held or refused (42_session_control.md R192-R199,
43_session_storage.md R221-R227). -/

namespace Sys2Proof.Machine

/-- `t` differs from `s` in no working register (10_state.md R47). -/
structure SameWork (s t : State) : Prop where
  addr : t.addr = s.addr
  done : t.done = s.done
  polls : t.polls = s.polls
  cur : t.cur = s.cur
  acc : t.acc = s.acc

/-- STATUS does not poll. -/
theorem statusExchange_sameWork (d : Descriptor) (s : State) : SameWork s (statusExchange d s) := by
  unfold statusExchange
  split <;> exact ⟨rfl, rfl, rfl, rfl, rfl⟩

section
variable {i : Instr} {s t : State}

/-- What no request writes. -/
theorem requestLeads_unwritten (h : RequestLeads i s t) :
    t.params = s.params ∧ t.desc = s.desc ∧ t.clockHz = s.clockHz ∧ t.delivered = s.delivered ∧ t.port = s.port
      ∧ t.probeReply = s.probeReply ∧ t.cur = s.cur := by
  cases h with
  | status d hi hd ha hq =>
    have hl := statusExchange_sameLink d (accept (portRecord i s) s)
    exact ⟨hl.params, hl.desc, hl.clockHz, hl.delivered, hl.port, hl.probeReply, (statusExchange_sameWork d _).cur⟩
  | _ => exact ⟨rfl, rfl, rfl, rfl, rfl, rfl, rfl⟩

theorem requestLeads_handle (h : RequestLeads i s t) (hi : i ≠ .release) : t.handle = s.handle := by
  cases h with
  | releaseReady hi' ha hq => exact absurd hi' hi
  | status d hi' hd ha hq => exact (statusExchange_sameLink d _).handle
  | _ => rfl

theorem requestLeads_wire (h : RequestLeads i s t) (hr : i ≠ .release) (hs : i ≠ .status) : t.wire = s.wire := by
  cases h with
  | releaseReady hi ha hq => exact absurd hi hr
  | status d hi hd ha hq => exact absurd hi hs
  | _ => rfl

/-- Only STATUS reaches the chip. -/
theorem requestLeads_chip (h : RequestLeads i s t) (hs : i ≠ .status) :
    t.chip = s.chip ∧ t.lastStatus = s.lastStatus ∧ t.lockStatus = s.lockStatus ∧ t.oracle = s.oracle
      ∧ t.draws = s.draws := by
  cases h with
  | status d hi hd ha hq => exact absurd hi hs
  | _ => exact ⟨rfl, rfl, rfl, rfl, rfl⟩

theorem requestLeads_addr_acc (h : RequestLeads i s t) (hr : ∀ o n, i ≠ .read o n) :
    t.addr = s.addr ∧ t.acc = s.acc := by
  cases h with
  | read d o n hi hd ha hq hin hn => exact absurd hi (hr o n)
  | status d hi hd ha hq =>
    have hw := statusExchange_sameWork d (accept (portRecord i s) s)
    exact ⟨hw.addr, hw.acc⟩
  | _ => exact ⟨rfl, rfl⟩

theorem requestLeads_done_polls (h : RequestLeads i s t) (he : ∀ o n b e, i ≠ .erase o n b e)
    (hw : ∀ o data, i ≠ .write o data) (hu : i ≠ .unlock) : t.done = s.done ∧ t.polls = s.polls := by
  cases h with
  | job d j hi hd ha hq hj =>
    rcases hi with hi | ⟨o, n, b, e, hi⟩ | ⟨o, data, hi⟩
    · exact absurd hi hu
    · exact absurd hi (he o n b e)
    · exact absurd hi (hw o data)
  | status d hi hd ha hq =>
    have hw := statusExchange_sameWork d (accept (portRecord i s) s)
    exact ⟨hw.done, hw.polls⟩
  | _ => exact ⟨rfl, rfl⟩

/-- A request that starts no operation and is no RELEASE leaves `seq` where it was. -/
theorem requestLeads_seq_of_query (h : RequestLeads i s t)
    (hi : i ∈ [.size, .name, .frequency, .flags, .status] ∨ ∃ v, i = .setTimeout v) : t.seq = s.seq := by
  cases h with
  | held ha => rfl
  | wrongState ha => rfl
  | attach hi' ha hq => obtain ⟨vid, pid, ifidx, rfl⟩ := hi'; simp at hi
  | releaseReady hi' ha hq => subst hi'; simp at hi
  | releaseUnattached hi' ha hq => subst hi'; simp at hi
  | setTimeout v hi' ha hq => exact seqAfterSuccess_of_control hq
  | succeeds v ha hq => exact seqAfterSuccess_of_control (.inr hq)
  | rangeError why ha hq => simp [hq, seqAfterError]
  | unsupported ha hq => simp [hq, seqAfterError]
  | status d hi' hd ha hq => exact (statusExchange_seq (s := accept _ s) hq).trans hq.symm
  | job d j hi' hd ha hq hj =>
    rcases hi' with rfl | ⟨o, n, b, e, rfl⟩ | ⟨o, data, rfl⟩ <;> simp at hi
  | read d o n hi' hd ha hq hin hn => subst hi'; simp at hi

/-- STATUS leaves the array of the session's own chip as it is (44_flash_device_model.md R253). -/
theorem chipByte_exchangeChip_rdsr {c : Choice} {d : Descriptor} (hd : s.desc = some d) (hg : s.chip.geom = some d)
    (x : Nat) : chipByte (exchangeChip c .rdsr s) x = chipByte s.chip x := by
  have hsettled : exchangeChip c .rdsr s = chipSettle c s.chip := by
    cases hx : c.xferFails with
    | false => exact exchangeChip_of_geom hd hg hx
    | true => simp [exchangeChip, mismatched_of_geom hd hg, hx, chipFails]
  rw [hsettled, chipByte_chipSettle]

theorem requestLeads_chipByte (h : RequestLeads i s t) (hm : mismatched s = false) (x : Nat) :
    chipByte t.chip x = chipByte s.chip x := by
  cases h with
  | status d hi hd ha hq =>
    have hg : s.chip.geom = some d := by
      rcases mismatched_eq_false.1 hm with e | e
      · rw [hd] at e; cases e
      · rw [← e, hd]
    rw [statusExchange_chip]
    exact chipByte_exchangeChip_rdsr (s := accept (portRecord i s) s) hd hg x
  | _ => rfl

end

/-- Settles O32, by the cases of what a request can lead to. -/
theorem requestFrame : Obligations.RequestFrame := by
  unfold Obligations.RequestFrame
  intro i s t hi h
  have hl : RequestLeads i s t := exec_request_leads hi h
  obtain ⟨hparams, hdesc, hclock, hdelivered, hport, hprobe, hcur⟩ := requestLeads_unwritten hl
  refine ⟨hparams, hdesc, hclock, hdelivered, hport, hprobe, hcur, requestLeads_handle hl, fun hv => ?_,
    requestLeads_wire hl, requestLeads_chip hl, requestLeads_addr_acc hl, requestLeads_done_polls hl,
    requestLeads_seq_of_query hl, requestLeads_chipByte hl⟩
  exact (requestLeads_timeoutPolls hl).resolve_right fun ⟨⟨v, e⟩, _⟩ => hv v e

end Sys2Proof.Machine
end

section
/-! The storage requests in the step that accepts them (43_session_storage.md R221-R227): the checks before any
transport primitive (60_exceptions.md R289), the range an ERASE takes (R223), and what a refused request leaves alone
(R232). -/

namespace Sys2Proof.Machine

/-! ### The effective range -/

theorem floorTo_le (a S : Nat) : floorTo a S ≤ a := Nat.div_mul_le_self a S

theorem lt_floorTo_add {a S : Nat} (hS : 0 < S) : a < floorTo a S + S := Nat.lt_div_mul_add hS

theorem le_ceilTo {a S : Nat} (hS : 0 < S) : a ≤ ceilTo a S := by
  have h : a + S - 1 < ceilTo a S + S := Nat.lt_div_mul_add hS
  omega

theorem ceilTo_lt {a S : Nat} (hS : 0 < S) : ceilTo a S < a + S := by
  have h : ceilTo a S ≤ a + S - 1 := Nat.div_mul_le_self _ S
  omega

/-- Rounding up stays below any multiple the number itself stays below. -/
theorem ceilTo_le {a S m : Nat} (hS : 0 < S) (hm : m % S = 0) (h : a ≤ m) : ceilTo a S ≤ m := by
  obtain ⟨k, rfl⟩ := Nat.dvd_of_mod_eq_zero hm
  rw [ceilTo, Nat.mul_comm S]
  exact Nat.mul_le_mul_right S ((Nat.div_le_iff_le_mul_add_pred hS).2 (by omega))

theorem effectiveRange_bestEffort {S o n : Nat} (hn : n ≠ 0) :
    effectiveRange S o n true = (floorTo o S, ceilTo (o + n) S) := by
  rw [effectiveRange, if_neg hn, if_pos rfl]

theorem effectiveRange_exact {S o n : Nat} (hn : n ≠ 0) : effectiveRange S o n false = (o, o + n) := by
  rw [effectiveRange, if_neg hn, if_neg Bool.false_ne_true]

/-- Settles O57: best-effort rounds outwards to sectors, and an aligned request is its own range. -/
theorem effectiveRangeCovers : Obligations.EffectiveRangeCovers := by
  unfold Obligations.EffectiveRangeCovers
  intro d m o n bestEffort hwf hin hn hal
  have hg := descriptorWf_geometry hwf
  have hS := hg.sector_pos
  cases bestEffort with
  | true =>
    rw [effectiveRange_bestEffort hn]
    exact ⟨floorTo_le o _, lt_floorTo_add hS, le_ceilTo hS, ceilTo_lt hS, Nat.mul_mod_left _ _, Nat.mul_mod_left _ _,
      ceilTo_le hS hg.sectors hin⟩
  | false =>
    obtain ⟨ho, hl⟩ := hal.resolve_left Bool.false_ne_true
    have hend : (o + n) % d.sectorSize = 0 := Nat.mod_eq_zero_of_dvd
      (Nat.dvd_add (Nat.dvd_of_mod_eq_zero ho) (Nat.dvd_of_mod_eq_zero hl))
    rw [effectiveRange_exact hn]
    exact ⟨Nat.le_refl o, Nat.lt_add_of_pos_right hS, Nat.le_refl _, Nat.lt_add_of_pos_right hS, ho, hend, hin⟩

/-! ### The checks -/

/-- A ready block that has accepted a request differs from before in the request registers, the response register and
`mutated`. -/
theorem accept_ready {d : Descriptor} {r : Request} {s : State} (h : readyWith d s) :
    accept r s = { s with req := latched r, response := none, mutated := false } := by
  obtain ⟨-, hr, -⟩ := h
  simp only [accept, hr]

/-- A check that fails in a ready block ends the request and writes the response register alone (60_exceptions.md
R290). -/
theorem raiseError_of_ready {e : ErrorRecord} {s : State} (hq : s.seq = .ready)
    (he : statusAfterError e s = s.lastStatus) : raiseError e s = respond (.err e) s := by
  have hseq : seqAfterError s.seq = s.seq := by rw [hq]; rfl
  rw [raiseError, hseq, he]

theorem rangeError_of_ready {why : RangeReason} {s : State} (hq : s.seq = .ready) :
    raiseError (.rangeError why) s = respond (.err (.rangeError why)) s := raiseError_of_ready hq rfl

theorem succeed_of_ready {v : Value} {s : State} (hq : s.seq = .ready) : succeed v s = respond (.ok v) s :=
  succeed_of_control (.inr hq)

/-- The job of an ERASE that has something to erase (43_session_storage.md R224). -/
def eraseJob (d : Descriptor) (o n : Nat) (bulk : Bool) : Job :=
  if bulk = true ∧ d.supportsBulk = true ∧ o = 0 ∧ n = d.size then .eraseBulk else .eraseSectors

theorem eraseJob_cases (d : Descriptor) (o n : Nat) (bulk : Bool) :
    eraseJob d o n bulk = .eraseBulk ∨ eraseJob d o n bulk = .eraseSectors := ite_eq_or_eq _ _ _

/-- The checks of ERASE, in order. -/
theorem beginErase_eq {o n : Nat} {bulk bestEffort : Bool} {d : Descriptor} {s : State} (hq : s.seq = .ready) :
    beginErase o n bulk bestEffort d s =
      if d.size < o + n then respond (.err (.rangeError .bounds)) s
      else if bestEffort = false ∧ (o % d.sectorSize ≠ 0 ∨ n % d.sectorSize ≠ 0) then
        respond (.err (.rangeError .alignment)) s
      else if (effectiveRange d.sectorSize o n bestEffort).1 = (effectiveRange d.sectorSize o n bestEffort).2 then
        respond (.ok (.range (effectiveRange d.sectorSize o n bestEffort).1
          (effectiveRange d.sectorSize o n bestEffort).2)) s
      else enterJob .erasing (eraseJob d o n bulk) s := by
  have hin : d.size < o + n ↔ ¬ inRange d.size o n = true := by rw [inRange_iff, Nat.not_le]
  have hal : (bestEffort = false ∧ (o % d.sectorSize ≠ 0 ∨ n % d.sectorSize ≠ 0))
      ↔ ¬ (bestEffort || sectorAligned d.sectorSize o n) = true := by
    rw [Bool.or_eq_true, sectorAligned_iff, not_or, Bool.not_eq_true, not_and_or]
  unfold beginErase
  simp only [hin, hal, ite_not, eraseJob, ← useBulk_iff, succeed_of_ready hq, rangeError_of_ready hq,
    apply_ite (enterJob .erasing · s)]

/-- The checks of READ. -/
theorem beginRead_eq {o n : Nat} {d : Descriptor} {s : State} (hq : s.seq = .ready) :
    beginRead o n d s =
      if d.size < o + n then respond (.err (.rangeError .bounds)) s
      else if n = 0 then respond (.ok (.data [])) s
      else { s with seq := .reading, phase := .readData, acc := [], addr := o } := by
  have hin : d.size < o + n ↔ ¬ inRange d.size o n = true := by rw [inRange_iff, Nat.not_le]
  unfold beginRead
  simp only [hin, ite_not, succeed_of_ready hq, rangeError_of_ready hq]

/-- The checks of WRITE. -/
theorem beginWrite_eq {o n : Nat} {d : Descriptor} {s : State} (hq : s.seq = .ready) :
    beginWrite o n d s =
      if d.size < o + n then respond (.err (.rangeError .bounds)) s
      else if n = 0 then respond (.ok (.count 0)) s
      else enterJob .programming .write s := by
  have hin : d.size < o + n ↔ ¬ inRange d.size o n = true := by rw [inRange_iff, Nat.not_le]
  unfold beginWrite
  simp only [hin, ite_not, succeed_of_ready hq, rangeError_of_ready hq]

/-- Settles O17, by the lock capability. -/
theorem unlockBegins : Obligations.UnlockBegins := by
  unfold Obligations.UnlockBegins
  intro s d h
  have hq : (accept (portRecord .unlock s) s).seq = .ready := h.1
  rw [exec, execUnlock, present_ready h, raiseError_of_ready hq rfl, accept_ready h]
  rfl

/-- Settles O18: the checks of ERASE in order; a length of 0 passes the first two and has an empty range. -/
theorem eraseChecksThenBegins : Obligations.EraseChecksThenBegins := by
  unfold Obligations.EraseChecksThenBegins
  intro s d o n bulk bestEffort h
  have hq : (accept (portRecord (.erase o n bulk bestEffort) s) s).seq = .ready := h.1
  refine ⟨?_, fun hn hsize hal => ⟨_, exec_erase_ready h, ?_⟩⟩
  · rw [exec_erase_ready h, beginErase_eq hq, accept_ready h]
    rfl
  · have haligned : ¬ (bestEffort = false ∧ (o.toNat % d.sectorSize ≠ 0 ∨ 0 % d.sectorSize ≠ 0)) := by
      rw [Nat.zero_mod]
      rcases hal with rfl | ho
      · simp
      · simp [ho]
    rw [beginErase_eq hq, hn, if_neg (Nat.not_lt.2 hsize : ¬ d.size < o.toNat + 0), if_neg haligned,
      effectiveRange_eq_of_zero, if_pos rfl]
    exact ⟨rfl, hq, rfl, rfl⟩

/-- Settles O19: the checks of READ. -/
theorem readChecksThenBegins : Obligations.ReadChecksThenBegins := by
  unfold Obligations.ReadChecksThenBegins
  intro s d o n h
  rw [exec_read_ready h, beginRead_eq (by exact h.1), accept_ready h]
  rfl

/-- Settles O20: the checks of WRITE. -/
theorem writeChecksThenBegins : Obligations.WriteChecksThenBegins := by
  unfold Obligations.WriteChecksThenBegins
  intro s d o data h
  rw [exec_write_ready h, beginWrite_eq (by exact h.1), accept_ready h]
  rfl

/-! ### Refused requests -/

/-- STATUS fails with nothing but a TransportError (43_session_storage.md R232). -/
theorem statusExchange_error {d : Descriptor} {s : State} {e : ErrorRecord}
    (h : (statusExchange d s).response = some (.err e)) : e = .transportError .exchange none := by
  unfold statusExchange at h
  split at h
  · cases h
  · cases h; rfl

/-- Settles O48: of what a request can lead to only STATUS and RELEASE make a primitive, and neither is refused so. -/
theorem refusedRequestsTouchNothing : Obligations.RefusedRequestsTouchNothing := by
  unfold Obligations.RefusedRequestsTouchNothing
  intro i s t e hi ha h hr he
  cases exec_request_leads hi h with
  | held hn => rw [ha] at hn; cases hn
  | wrongState _ => exact ⟨rfl, rfl, rfl, rfl, rfl⟩
  | rangeError why _ hq => exact ⟨rfl, rfl, rfl, rfl, by rw [raiseError_seq, accept_seq, hq]; rfl⟩
  | unsupported _ hq => exact ⟨rfl, rfl, rfl, rfl, by rw [raiseError_seq, accept_seq, hq]; rfl⟩
  | status d _ _ _ _ =>
    rw [statusExchange_error hr] at he
    rcases he with ⟨why, he⟩ | he | ⟨why, he⟩ <;> cases he
  | _ => cases hr

end Sys2Proof.Machine
end

section
/-! The status reads of UNLOCK, ERASE and WRITE that find the chip idle (43_session_storage.md R220-R222, R227): what
such a read records (10_state.md R45), what follows it, and the steps between two of them. -/

namespace Sys2Proof.Machine

/-! ### A status read that finds the chip idle -/

/-- The status byte the chip answers now. -/
def freshStatus (d : Descriptor) (s : State) : Byte :=
  statusByte (nextChoice s) d (chipSettle (nextChoice s) s.chip)

/-- The state that has read and recorded it. -/
def freshRead (d : Descriptor) (s : State) : State :=
  { statusTaken d (freshStatus d s) s with cur := freshStatus d s }

@[simp] theorem freshRead_seq (d : Descriptor) (s : State) : (freshRead d s).seq = s.seq := rfl
@[simp] theorem freshRead_req (d : Descriptor) (s : State) : (freshRead d s).req = s.req := rfl
@[simp] theorem freshRead_addr (d : Descriptor) (s : State) : (freshRead d s).addr = s.addr := rfl
@[simp] theorem freshRead_done (d : Descriptor) (s : State) : (freshRead d s).done = s.done := rfl

/-- `t` differs from `s` in neither the status registers nor the byte read last. -/
structure SameStatus (s t : State) : Prop where
  lastStatus : t.lastStatus = s.lastStatus
  lockStatus : t.lockStatus = s.lockStatus
  cur : t.cur = s.cur

theorem beginJob_sameStatus (d : Descriptor) (j : Job) (b : Byte) (s : State) : SameStatus s (beginJob d j b s) := by
  unfold beginJob
  split <;> split <;> exact ⟨rfl, rfl, rfl⟩

theorem advanceJob_sameStatus (d : Descriptor) (j : Job) (b : Byte) (s : State) :
    SameStatus s (advanceJob d j b s) := by
  unfold advanceJob
  split
  · split <;> exact ⟨rfl, rfl, rfl⟩
  · exact ⟨rfl, rfl, rfl⟩
  all_goals simp only; split <;> exact ⟨rfl, rfl, rfl⟩

/-- `t` comes of `s` by one read of the idle status `b` on device `d`. -/
structure ReadsIdle (d : Descriptor) (b : Byte) (s t : State) : Prop where
  protect : b &&& d.bpMask = s.chip.bp &&& d.bpMask
  idle : b.getLsbD 0 = false
  wire : t.wire = .xfer .rdsr [0x05] 1 (some [b]) :: s.wire
  chip : t.chip = chipSettle (nextChoice s) s.chip
  lastStatus : t.lastStatus = some b
  lockStatus : t.lockStatus = if s.chip.bp &&& d.bpMask = 0 then .unlocked else .locked
  cur : t.cur = b

section
variable {d : Descriptor} {j : Job} {s : State}

theorem freshStatus_protect (hm : d.bpMask &&& 1 = 0) : freshStatus d s &&& d.bpMask = s.chip.bp &&& d.bpMask := by
  rw [freshStatus, statusByte_protect hm, chipSettle_bp]

theorem statusBusy_freshStatus (hm : d.bpMask &&& 1 = 0) :
    statusBusy (freshStatus d s) = (chipSettle (nextChoice s) s.chip).busy := statusByte_busy hm

theorem freshRead_wire (h : linkedTo d s) :
    (freshRead d s).wire = .xfer .rdsr [0x05] 1 (some [freshStatus d s]) :: s.wire := by
  obtain ⟨-, hd, hg, hx⟩ := h
  show (exchanged .rdsr s).wire = _
  rw [exchanged_rdsr_wire (exchangeResult_some.2 ⟨hx, rfl⟩), exchangeReply_rdsr hd hg]
  rfl

theorem freshRead_chip (h : linkedTo d s) : (freshRead d s).chip = chipSettle (nextChoice s) s.chip := by
  obtain ⟨-, hd, hg, hx⟩ := h
  exact exchangeChip_of_geom hd hg hx

/-- Whatever the session does after the read leaves its record. -/
theorem readsIdle_of_same {t : State} (h : linkedTo d s) (hm : d.bpMask &&& 1 = 0)
    (hb : (chipSettle (nextChoice s) s.chip).busy = false) (hl : SameLink (freshRead d s) t)
    (hs : SameStatus (freshRead d s) t) : ReadsIdle d (freshStatus d s) s t := by
  have hlock : (freshRead d s).lockStatus = lockOf d.bpMask (freshStatus d s) := rfl
  refine ⟨freshStatus_protect hm, (statusBusy_freshStatus hm).trans hb, hl.wire.trans (freshRead_wire h),
    hl.chip.trans (freshRead_chip h), hs.lastStatus, ?_, hs.cur⟩
  rw [hs.lockStatus, hlock, lockOf_eq, freshStatus_protect hm]

/-- The idle status before the first mutating command makes the lock decision and starts the job. -/
theorem step_waitIdle_idle (hp : s.phase = .waitIdle j) (h : linkedTo d s) (hm : d.bpMask &&& 1 = 0)
    (hb : (chipSettle (nextChoice s) s.chip).busy = false) :
    step s = .next (beginJob d j (freshStatus d s) (freshRead d s))
      ∧ ReadsIdle d (freshStatus d s) s (beginJob d j (freshStatus d s) (freshRead d s)) := by
  refine ⟨?_, readsIdle_of_same h hm hb (beginJob_sameLink _ _ _ _) (beginJob_sameStatus _ _ _ _)⟩
  rw [step_waitIdle hp h, pollTurn_idle ((statusByte_busy hm).trans hb)]
  rfl

/-- The idle status after a mutating frame takes the job on. -/
theorem step_waitDone_idle (hp : s.phase = .waitDone j) (h : linkedTo d s) (hm : d.bpMask &&& 1 = 0)
    (hb : (chipSettle (nextChoice s) s.chip).busy = false) :
    step s = .next (advanceJob d j (freshStatus d s) (freshRead d s))
      ∧ ReadsIdle d (freshStatus d s) s (advanceJob d j (freshStatus d s) (freshRead d s)) := by
  refine ⟨?_, readsIdle_of_same h hm hb (advanceJob_sameLink _ _ _ _) (advanceJob_sameStatus _ _ _ _)⟩
  rw [step_waitDone hp h, pollTurn_idle ((statusByte_busy hm).trans hb)]
  rfl

/-! ### The mutating frame -/

/-- A mutating frame that is answered, on a chip idle or not (41_codec.md R166, R172). -/
theorem step_mutate (hp : s.phase = .mutate j) (h : linkedTo d s) :
    step s = .next { exchanged (jobFrame d j s) s with mutated := true, polls := 0, phase := .waitDone j } := by
  obtain ⟨hh, hd, -, hx⟩ := h
  rw [step_command (cmd := jobFrame d j s) (by simp [commandInFlight, hp, hd]), sendCommand_answered hh hx,
    resume_jobFrame, mutationSent_mutate (s := exchanged (jobFrame d j s) s) hp]

theorem exchanged_linked_wire {cmd : Command} (h : linkedTo d s) (hr : responseLength cmd = 0) :
    (exchanged cmd s).wire = .xfer cmd (encodeFrame d.ops cmd) 0 (some []) :: s.wire := by
  obtain ⟨hh, hd, hg, hx⟩ := h
  rw [← (sendCommand_open_sameLink hh).wire, sendCommand_wire ⟨hg, .inr ⟨hd, hx⟩⟩ hh, hr]
  rfl

/-! ### The lock decision and the progress of a job -/

/-- A chip with a protect bit ends ERASE and WRITE (R220). -/
theorem beginJob_locked {b : Byte} (hj : j ≠ .unlock) (hb : b &&& d.bpMask ≠ 0) :
    beginJob d j b s = raiseError (.lockedError b) s := by
  have hp : statusProtected d.bpMask b = true := statusProtected_iff.2 hb
  cases j with
  | unlock => exact absurd rfl hj
  | eraseSectors | eraseBulk | write => rw [beginJob, if_pos hp]

/-- A chip without one lets them begin, at the start of the range or at the offset, with nothing done (R222, R227). -/
theorem beginJob_free {b : Byte} (hj : j ≠ .unlock) (hb : b &&& d.bpMask = 0) :
    (beginJob d j b s).phase = .writeEnable j ∧ (beginJob d j b s).response = s.response
      ∧ (beginJob d j b s).seq = s.seq
      ∧ (j = .eraseSectors → (beginJob d j b s).addr = (eraseRange d s.req).1 ∧ (beginJob d j b s).done = 0)
      ∧ (j = .write → (beginJob d j b s).addr = s.req.offset.toNat ∧ (beginJob d j b s).done = 0) := by
  have hp : statusProtected d.bpMask b ≠ true := by rw [Ne, Bool.not_eq_true]; exact statusProtected_eq_false.2 hb
  cases j with
  | unlock => exact absurd rfl hj
  | eraseBulk => rw [beginJob, if_neg hp]; exact ⟨rfl, rfl, rfl, nofun, nofun⟩
  | eraseSectors => rw [beginJob, if_neg hp]; exact ⟨rfl, rfl, rfl, fun _ => ⟨rfl, rfl⟩, nofun⟩
  | write => rw [beginJob, if_neg hp]; exact ⟨rfl, rfl, rfl, nofun, fun _ => ⟨rfl, rfl⟩⟩

/-- UNLOCK has something to clear exactly where a protect bit is set (R221). -/
theorem beginJob_unlock {b : Byte} :
    beginJob d .unlock b s =
      if b &&& d.bpMask = 0 then succeed .empty s else { s with phase := .writeEnable .unlock } := by
  simp only [beginJob, statusProtected_iff, ite_not]

theorem advanceJob_unlock {b : Byte} :
    advanceJob d .unlock b s = if b &&& d.bpMask = 0 then succeed .empty s else raiseError (.lockedError b) s := by
  simp only [advanceJob, statusProtected_iff, ite_not]

theorem advanceJob_eraseBulk {b : Byte} :
    advanceJob d .eraseBulk b s = succeed (.range (eraseRange d s.req).1 (eraseRange d s.req).2) s := rfl

/-- The next sector of an ERASE, or its end (R222). -/
theorem advanceJob_eraseSectors_next {b : Byte} (hq : s.seq = .erasing) :
    (advanceJob d .eraseSectors b s).addr = s.addr + d.sectorSize
      ∧ (advanceJob d .eraseSectors b s).done = s.done + 1
      ∧ (s.addr + d.sectorSize < (eraseRange d s.req).2 →
          (advanceJob d .eraseSectors b s).phase = .writeEnable .eraseSectors
            ∧ (advanceJob d .eraseSectors b s).seq = .erasing)
      ∧ (¬ s.addr + d.sectorSize < (eraseRange d s.req).2 →
          (advanceJob d .eraseSectors b s).seq = .ready ∧ (advanceJob d .eraseSectors b s).phase = .idle
            ∧ (advanceJob d .eraseSectors b s).response
              = some (.ok (.range (eraseRange d s.req).1 (eraseRange d s.req).2))) := by
  by_cases hlt : s.addr + d.sectorSize < (eraseRange d s.req).2 <;> simp [advanceJob, hlt, hq, seqAfterSuccess]

/-- The next chunk of a WRITE, or its end (R227). -/
theorem advanceJob_write_next {b : Byte} (hq : s.seq = .programming) :
    (advanceJob d .write b s).done = s.done + writeChunk d s
      ∧ (advanceJob d .write b s).addr = s.addr + writeChunk d s
      ∧ ((advanceJob d .write b s).done < s.req.data.length →
          (advanceJob d .write b s).phase = .writeEnable .write ∧ (advanceJob d .write b s).seq = .programming)
      ∧ (¬ (advanceJob d .write b s).done < s.req.data.length →
          (advanceJob d .write b s).seq = .ready ∧ (advanceJob d .write b s).phase = .idle
            ∧ (advanceJob d .write b s).response = some (.ok (.count s.req.data.length))) := by
  by_cases hlt : s.done + writeChunk d s < s.req.data.length <;> simp [advanceJob, hlt, hq, seqAfterSuccess]

end

/-! ### The obligations -/

/-- Settles O37: the byte read shows the protect bits of the chip, and they decide. -/
theorem freshStatusDecidesLock : Obligations.FreshStatusDecidesLock := by
  unfold Obligations.FreshStatusDecidesLock
  intro s d j hp hj hq h hm hidle
  obtain ⟨hs, hr⟩ := step_waitIdle_idle hp h hm hidle
  have hlock := hr.lockStatus
  refine ⟨_, _, hs, hr.protect, hr.idle, hr.wire, hr.chip, hr.lastStatus, hr.cur, fun hb => ?_, fun hb => ?_⟩
  · have hseq : seqAfterError s.seq = .ready := by rw [hq]; exact seqAfterError_jobSeq j
    rw [if_neg hb] at hlock
    rw [beginJob_locked hj (by rw [hr.protect]; exact hb)] at hlock ⊢
    exact ⟨rfl, hseq, rfl, hlock⟩
  · rw [if_pos hb] at hlock
    obtain ⟨hphase, hresponse, hseq, herase, hwrite⟩ :=
      beginJob_free (s := freshRead d s) hj (hr.protect.trans hb)
    exact ⟨hphase, hresponse, hlock, hseq, herase, hwrite⟩

/-- Settles O38, position by position. -/
theorem unlockClearsProtectBits : Obligations.UnlockClearsProtectBits := by
  unfold Obligations.UnlockClearsProtectBits
  intro s d hq h hm hidle
  have hsucc : seqAfterSuccess s.seq = .ready := by rw [hq]; rfl
  have herr : seqAfterError s.seq = .ready := by rw [hq]; rfl
  refine ⟨fun hp => ?_, fun hp => ⟨_, step_mutate hp h, rfl, exchanged_linked_wire h rfl⟩, fun hp => ?_⟩
  · obtain ⟨hs, hr⟩ := step_waitIdle_idle hp h hm hidle
    have hlock := hr.lockStatus
    refine ⟨_, _, hs, hr.protect, hr.idle, hr.wire, hr.lastStatus, hr.cur, fun hb => ?_, fun hb => ?_⟩
    · rw [if_pos hb] at hlock
      rw [beginJob_unlock, if_pos (hr.protect.trans hb)] at hlock ⊢
      exact ⟨rfl, hsucc, rfl, hlock⟩
    · rw [if_neg hb] at hlock
      rw [beginJob_unlock, if_neg (by rw [hr.protect]; exact hb)] at hlock ⊢
      exact ⟨rfl, rfl, hlock⟩
  · obtain ⟨hs, hr⟩ := step_waitDone_idle hp h hm hidle
    have hlock := hr.lockStatus
    refine ⟨_, _, hs, hr.protect, hr.idle, hr.wire, hr.lastStatus, ?_⟩
    by_cases hb : s.chip.bp &&& d.bpMask = 0
    · rw [if_pos hb] at hlock
      rw [advanceJob_unlock, if_pos (hr.protect.trans hb)] at hlock ⊢
      exact ⟨hsucc, rfl, fun _ => ⟨rfl, hlock⟩, absurd hb⟩
    · rw [if_neg hb] at hlock
      rw [advanceJob_unlock, if_neg (by rw [hr.protect]; exact hb)] at hlock ⊢
      exact ⟨herr, rfl, (absurd · hb), fun _ => ⟨rfl, hlock⟩⟩

/-- Settles O40: the record of the read is the same for every job, what follows is the job's own. -/
theorem idleStatusAdvancesJob : Obligations.IdleStatusAdvancesJob := by
  unfold Obligations.IdleStatusAdvancesJob
  intro s d h hm hidle
  refine ⟨fun ⟨j, _, hp⟩ => ?_, fun hp hq => ?_, fun hp hq => ?_, fun hp hq => ?_⟩
  · obtain ⟨hs, hr⟩ := step_waitDone_idle hp h hm hidle
    exact ⟨_, _, hs, hr.protect, hr.idle, hr.wire, hr.chip, hr.lastStatus, hr.cur, hr.lockStatus⟩
  all_goals
    rw [← freshRead_seq d] at hq
    refine ⟨_, (step_waitDone_idle hp h hm hidle).1, ?_⟩
    rw [← freshRead_req d s]
  · rw [← freshRead_addr d s, ← freshRead_done d s]
    exact advanceJob_eraseSectors_next hq
  · exact ⟨by rw [advanceJob_eraseBulk, succeed_seq, hq]; rfl, rfl, rfl⟩
  · rw [← freshRead_addr d s, ← freshRead_done d s]
    exact advanceJob_write_next hq

end Sys2Proof.Machine
end

section
/-! What the mutating frames of ERASE and WRITE do to a chip with the latch set and no protect bit
(44_flash_device_model.md R257-R259), in the terms of the job that sends them: the range of the array the job is to
change, how far its frames reach, and the bytes they leave. -/

namespace Sys2Proof.Machine

/-! ### The chip -/

@[simp] theorem protectBits_chipSettle (g : Descriptor) (c : Choice) (ch : Chip) :
    protectBits g (chipSettle c ch) = protectBits g ch := by
  rw [protectBits, protectBits, chipSettle_bp]

theorem protectedRange_of_unprotected {g : Descriptor} {ch : Chip} (h : protectBits g ch = 0) (lo n : Nat) :
    protectedRange g ch lo n = false := by
  simp [protectedRange, h]

theorem chipWrsr_geom (c : Choice) (g : Descriptor) (v : Byte) (ch : Chip) : (chipWrsr c g v ch).geom = ch.geom := by
  unfold chipWrsr
  split
  · split <;> rfl
  · rfl

theorem chipSe_geom (c : Choice) (g : Descriptor) (a : Nat) (ch : Chip) : (chipSe c g a ch).geom = ch.geom := by
  unfold chipSe
  (repeat' split) <;> rfl

theorem chipBe_geom (c : Choice) (g : Descriptor) (ch : Chip) : (chipBe c g ch).geom = ch.geom := by
  unfold chipBe
  (repeat' split) <;> rfl

theorem chipPp_geom (c : Choice) (g : Descriptor) (a : Nat) (data : List Byte) (ch : Chip) :
    (chipPp c g a data ch).geom = ch.geom := by
  unfold chipPp
  (repeat' split) <;> rfl

/-- No frame makes another chip of the one it reaches, whatever becomes of its content. -/
theorem chipCommand_geom (c : Choice) (g : Descriptor) (cmd : Command) (ch : Chip) :
    (chipCommand c g cmd ch).geom = ch.geom := by
  cases cmd with
  | rdid | rdsr | readData => rfl
  | wren | wrdi => simp only [chipCommand]; split <;> rfl
  | wrsr => simp only [chipCommand]; split; exacts [rfl, chipWrsr_geom _ _ _ _]
  | se => simp only [chipCommand]; split; exacts [rfl, chipSe_geom _ _ _ _]
  | be => simp only [chipCommand]; split; exacts [rfl, chipBe_geom _ _ _]
  | pp => simp only [chipCommand]; split; exacts [rfl, chipPp_geom _ _ _ _ _]

theorem chipTorn_geom (c : Choice) (g : Descriptor) (cmd : Command) (ch : Chip) :
    (chipTorn c g cmd ch).geom = ch.geom := by
  cases cmd with
  | se | pp => simp only [chipTorn]; split <;> rfl
  | _ => rfl

theorem chipFails_geom (c : Choice) (cmd : Command) (ch : Chip) : (chipFails c cmd ch).geom = ch.geom := by
  unfold chipFails
  split
  case h_1 | h_2 | h_3 => rfl
  all_goals
    split
    · split
      · rfl
      · exact chipTorn_geom _ _ _ _
    · rfl

theorem chipReceives_geom (c : Choice) (cmd : Command) (ch : Chip) : (chipReceives c cmd ch).geom = ch.geom := by
  unfold chipReceives
  split
  · exact chipCommand_geom _ _ _ _
  · cases cmd <;> rfl

theorem exchangeChip_geom (c : Choice) (cmd : Command) (s : State) : (exchangeChip c cmd s).geom = s.chip.geom := by
  unfold exchangeChip
  split
  · exact chipSettle_geom _ _
  · split
    · rw [chipFails_geom, chipSettle_geom]
    · rw [chipReceives_geom, chipSettle_geom]

/-- `ch'` is `ch` with the bytes `f` stored in `[lo, hi)`, and its protect bits kept. -/
structure Stores (lo hi : Nat) (f : Nat → Byte) (ch ch' : Chip) : Prop where
  bp : ch'.bp = ch.bp
  byte : ∀ x, chipByte ch' x = if lo ≤ x ∧ x < hi then f x else chipByte ch x

section
variable {c : Choice} {g : Descriptor} {ch : Chip} {a x : Nat}

/-- SE of a whole sector of the array (R257). -/
theorem stores_chipSe (hm : chipWf ch) (hw : ch.wel = true) (hp : protectBits g ch = 0) (ha : a % g.sectorSize = 0)
    (hin : a + g.sectorSize ≤ g.size) :
    Stores a (a + g.sectorSize) (fun _ => Config.erased) ch (chipSe c g a ch) := by
  have hfloor : floorTo a g.sectorSize = a := Nat.div_mul_cancel (Nat.dvd_of_mod_eq_zero ha)
  rw [chipSe_erased hw (by rw [hfloor]; exact hin) (protectedRange_of_unprotected hp _ _), hfloor]
  exact ⟨rfl, chipByte_chipStore hm _ _ _⟩

/-- BE (R258). -/
theorem stores_chipBe (hm : chipWf ch) (hw : ch.wel = true) (hp : protectBits g ch = 0) :
    Stores 0 g.size (fun _ => Config.erased) ch (chipBe c g ch) := by
  rw [chipBe_erased hw hp]
  exact ⟨rfl, fun x => (chipByte_chipStore hm _ _ _ x).trans (by rw [Nat.zero_add])⟩

/-- A payload that ends inside its page lands in one run (R259). -/
theorem programmedByte_run {P : Nat} {data : List Byte} (hend : a % P + data.length ≤ P) (hlo : a / P * P ≤ x)
    (hhi : x < a / P * P + P) :
    programmedByte P a data ch x
      = if a ≤ x ∧ x < a + data.length then chipByte ch x &&& data.getD (x - a) 0 else chipByte ch x := by
  have hbase : a / P * P + a % P = a := Nat.div_add_mod' a P
  have hplace (i : Nat) (hi : i < data.length) : a / P * P + (a % P + i) % P = a + i := by
    rw [Nat.mod_eq_of_lt (by omega : a % P + i < P)]; omega
  split
  · next h =>
    have hi : x - a < data.length := by omega
    have hhit := programmedByte_hit (a := a) ch (by omega : x - a < P) (List.getElem?_eq_getElem hi)
    rw [hplace _ hi, Nat.add_sub_cancel' h.1] at hhit
    rw [hhit, List.getD_eq_getElem _ _ hi]
  · next h =>
    refine programmedByte_miss ch hlo hhi fun i hi => ?_
    rw [hplace i hi]
    omega

/-- PP of a payload that ends inside its page, and the page inside the array (R259). -/
theorem stores_chipPp {data : List Byte} (hm : chipWf ch) (hw : ch.wel = true) (hp : protectBits g ch = 0)
    (hne : data ≠ []) (hend : a % g.pageSize + data.length ≤ g.pageSize)
    (hin : floorTo a g.pageSize + g.pageSize ≤ g.size) :
    Stores a (a + data.length) (fun x => chipByte ch x &&& data.getD (x - a) 0) ch (chipPp c g a data ch) := by
  rw [chipPp_programmed hw hin hne (by omega) (protectedRange_of_unprotected hp _ _)]
  refine ⟨rfl, fun x => (chipByte_chipStore hm _ _ _ x).trans ?_⟩
  split
  · next h => exact programmedByte_run hend h.1 h.2
  · next h =>
    have hbase : floorTo a g.pageSize + a % g.pageSize = a := Nat.div_add_mod' a _
    rw [if_neg (by omega)]

end

/-- The page of an address of the array lies inside the array (40_registry.md R141). -/
theorem page_le_size {d : Descriptor} {m a : Nat} (hg : Geometry m d) (ha : a < d.size) :
    floorTo a d.pageSize + d.pageSize ≤ d.size := by
  have hdvd : d.pageSize ∣ d.size :=
    (Nat.dvd_of_mod_eq_zero hg.pages).trans (Nat.dvd_of_mod_eq_zero hg.sectors)
  obtain ⟨k, hk⟩ := hdvd
  have hlt : a / d.pageSize < k := Nat.div_lt_of_lt_mul (by rw [← hk]; exact ha)
  calc floorTo a d.pageSize + d.pageSize = d.pageSize * (a / d.pageSize + 1) := by rw [floorTo]; ring
    _ ≤ d.pageSize * k := Nat.mul_le_mul_left _ hlt
    _ = d.size := hk.symm

/-! ### The job -/

/-- The range of the array job `j` is to change (43_session_storage.md R222, R227): none for UNLOCK. -/
def jobRange (d : Descriptor) (j : Job) (r : ReqRegs) : Nat × Nat :=
  match j with
  | .unlock => (0, 0)
  | .eraseSectors | .eraseBulk => eraseRange d r
  | .write => (r.offset.toNat, r.offset.toNat + r.data.length)

/-- The byte job `j` is to leave at `x` of that range, where `b` gives the array before (R229, R231). -/
def jobByte (j : Job) (r : ReqRegs) (b : Nat → Byte) (x : Nat) : Byte :=
  match j with
  | .unlock => b x
  | .eraseSectors | .eraseBulk => Config.erased
  | .write => b x &&& r.data.getD (x - r.offset.toNat) 0

/-- The value job `j` answers (R222, R227). -/
def jobValue (d : Descriptor) (j : Job) (r : ReqRegs) : Value :=
  match j with
  | .unlock => .empty
  | .eraseSectors | .eraseBulk => .range (eraseRange d r).1 (eraseRange d r).2
  | .write => .count r.data.length

/-- Where the next mutating frame of job `j` begins: all of the range before it is done. -/
def frameStart (d : Descriptor) (j : Job) (s : State) : Nat :=
  match j with
  | .unlock => 0
  | .eraseBulk => (eraseRange d s.req).1
  | .eraseSectors | .write => s.addr

/-- Where it ends. -/
def frameEnd (d : Descriptor) (j : Job) (s : State) : Nat :=
  match j with
  | .unlock => 0
  | .eraseBulk => (eraseRange d s.req).2
  | .eraseSectors => s.addr + d.sectorSize
  | .write => s.addr + writeChunk d s

/-- The array `b` with the range of job `j` done up to `hi`. -/
def doneTo (d : Descriptor) (j : Job) (r : ReqRegs) (b : Nat → Byte) (hi x : Nat) : Byte :=
  if (jobRange d j r).1 ≤ x ∧ x < hi then jobByte j r b x else b x

/-- A bulk erase is admitted for the whole array only (R224). -/
theorem eraseRange_bulk {d : Descriptor} {r : ReqRegs} {m : Nat} (hg : Geometry m d)
    (hj : jobAdmitted d .eraseBulk r) : eraseRange d r = (0, d.size) := by
  obtain ⟨-, -, ho, hl, hn⟩ := hj
  rw [eraseRange, ho, hl]
  rw [hl] at hn
  cases r.bestEffort with
  | true =>
    have hle : d.size ≤ ceilTo d.size d.sectorSize := le_ceilTo hg.sector_pos
    have hge : ceilTo d.size d.sectorSize ≤ d.size := ceilTo_le hg.sector_pos hg.sectors (Nat.le_refl _)
    have hfloor : floorTo 0 d.sectorSize = 0 := by rw [floorTo, Nat.zero_div, Nat.zero_mul]
    rw [effectiveRange_bestEffort hn, hfloor, Nat.zero_add, Nat.le_antisymm hge hle]
  | false => rw [effectiveRange_exact hn, Nat.zero_add]

section
variable {d : Descriptor} {j : Job} {s : State} {b : Nat → Byte} {m x : Nat}

/-- The next frame of a job lies inside its range. -/
theorem frame_inside (hg : Geometry m d) (hj : jobAdmitted d j s.req) (hpos : jobPosition d j s) :
    (jobRange d j s.req).1 ≤ frameStart d j s ∧ frameStart d j s ≤ frameEnd d j s
      ∧ frameEnd d j s ≤ (jobRange d j s.req).2 := by
  cases j with
  | unlock => exact ⟨Nat.le_refl _, Nat.le_refl _, Nat.le_refl _⟩
  | eraseBulk =>
    simp only [jobRange, frameStart, frameEnd, eraseRange_bulk hg hj]
    omega
  | eraseSectors =>
    obtain ⟨haddr, hend⟩ := hpos
    simp only [jobRange, frameStart, frameEnd]
    omega
  | write =>
    obtain ⟨haddr, hdone⟩ := hpos
    obtain ⟨-, -, hrest⟩ := chunkLength_bounds (addr := s.addr) hg.page_pos hdone
    simp only [jobRange, frameStart, frameEnd, writeChunk]
    omega

theorem chunkData_getD {data : List Byte} {done k i : Nat} (hi : i < k) :
    (chunkData data done k).getD i 0 = data.getD (done + i) 0 := by
  simp only [chunkData, List.getD_eq_getElem?_getD, List.getElem?_take_of_lt hi, List.getElem?_drop]

/-- The SE of an ERASE sets its sector (R257). -/
theorem stores_sectorFrame {c : Choice} {ch : Chip} (hg : Geometry m d) (hj : jobAdmitted d .eraseSectors s.req)
    (hpos : jobPosition d .eraseSectors s) (hm : chipWf ch) (hw : ch.wel = true) (hp : protectBits d ch = 0) :
    Stores s.addr (s.addr + d.sectorSize) (fun _ => Config.erased) ch (chipSe c d (addrField s.addr).toNat ch) := by
  have hlegal := legal_se (p := emptyParams) hg hj hpos
  have haddr : (addrField s.addr).toNat = s.addr := by
    have hsize := hpos.2.trans (eraseRange_le_size hg hj)
    have hS := hg.sector_pos
    exact addrField_toNat_of_lt hg (by omega)
  simp only [Instr.legal, haddr, Bool.and_eq_true, decide_eq_true_eq] at hlegal
  rw [haddr]
  exact stores_chipSe hm hw hp hlegal.1 hlegal.2

/-- The PP of a WRITE ANDs its chunk into the array (R259). -/
theorem stores_chunkFrame {c : Choice} {ch : Chip} (hg : Geometry m d) (hj : jobAdmitted d .write s.req)
    (hpos : jobPosition d .write s) (hm : chipWf ch) (hw : ch.wel = true) (hp : protectBits d ch = 0) :
    Stores s.addr (s.addr + writeChunk d s) (fun x => chipByte ch x &&& s.req.data.getD (x - s.req.offset.toNat) 0) ch
      (chipPp c d (addrField s.addr).toNat (chunkData s.req.data s.done (writeChunk d s)) ch) := by
  obtain ⟨hin, -⟩ := hj
  obtain ⟨hstart, hdone⟩ := hpos
  obtain ⟨hbyte, hpage, hrest⟩ := chunkLength_bounds (addr := s.addr) hg.page_pos hdone
  have hlen : (chunkData s.req.data s.done (writeChunk d s)).length = writeChunk d s := chunkData_length hrest
  have hne : chunkData s.req.data s.done (writeChunk d s) ≠ [] := List.ne_nil_of_length_pos (by rw [hlen]; exact hbyte)
  rw [addrField_toNat_of_lt hg (by omega)]
  have hstores := stores_chipPp (c := c) hm hw hp hne (by rw [hlen]; exact hpage) (page_le_size hg (by omega))
  rw [hlen] at hstores
  refine ⟨hstores.bp, fun x => (hstores.byte x).trans (ite_congr rfl (fun h => ?_) fun _ => rfl)⟩
  rw [chunkData_getD (by omega), show s.done + (x - s.addr) = x - s.req.offset.toNat by omega]

/-- The mutating frame of ERASE or WRITE does its part of the range and nothing else. -/
theorem stores_jobFrame {c : Choice} {ch : Chip} (hg : Geometry m d) (hu : j ≠ .unlock)
    (hj : jobAdmitted d j s.req) (hpos : jobPosition d j s) (hm : chipWf ch) (hidle : ch.busy = false)
    (hw : ch.wel = true) (hp : protectBits d ch = 0) :
    Stores (frameStart d j s) (frameEnd d j s) (jobByte j s.req (chipByte ch)) ch
      (chipCommand c d (jobFrame d j s) ch) := by
  cases j with
  | unlock => exact absurd rfl hu
  | eraseBulk =>
    simp only [jobFrame, chipCommand, hidle, frameStart, frameEnd, eraseRange_bulk hg hj]
    exact stores_chipBe hm hw hp
  | eraseSectors =>
    simp only [jobFrame, chipCommand, hidle]
    exact stores_sectorFrame hg hj hpos hm hw hp
  | write =>
    simp only [jobFrame, chipCommand, hidle]
    exact stores_chunkFrame hg hj hpos hm hw hp

/-- So where the range was done up to the frame, it is done up to its end. -/
theorem Stores.doneTo_frameEnd {ch ch' : Chip} (hg : Geometry m d) (hj : jobAdmitted d j s.req)
    (hpos : jobPosition d j s) (hs : Stores (frameStart d j s) (frameEnd d j s) (jobByte j s.req (chipByte ch)) ch ch')
    (hb : ∀ x, chipByte ch x = doneTo d j s.req b (frameStart d j s) x) (x : Nat) :
    chipByte ch' x = doneTo d j s.req b (frameEnd d j s) x := by
  obtain ⟨hlo, hhi, -⟩ := frame_inside hg hj hpos
  rw [hs.byte, hb]
  by_cases hx : frameStart d j s ≤ x ∧ x < frameEnd d j s
  · have hold : chipByte ch x = b x := by rw [hb, doneTo, if_neg (by omega)]
    rw [if_pos hx, doneTo, if_pos (by omega)]
    cases j with
    | write => rw [jobByte, hold]; rfl
    | unlock => exact hold
    | eraseSectors | eraseBulk => rfl
  · rw [if_neg hx, doneTo, doneTo]
    exact if_congr (by omega) rfl rfl

end

end Sys2Proof.Machine
end

section
/-! The run of an ERASE or a WRITE (43_session_storage.md R222, R227): what each of its steps keeps, whatever the
transport and the chip choose, and what has become of the array where it ends with Ok (R229, R231). -/

namespace Sys2Proof.Machine

/-! ### The invariant of the run -/

/-- What the chip holds at a position of job `j`, where `b` was the array before: all of the range up to the next frame
is done, and no protect bit stands in the way of the rest; where the job has answered Ok, all of it is done. -/
def storeAt (d : Descriptor) (j : Job) (b : Nat → Byte) (s : State) : Prop :=
  match s.phase with
  | .waitIdle i => i = j ∧ ∀ x, chipByte s.chip x = b x
  | .writeEnable i =>
    i = j ∧ protectBits d s.chip = 0 ∧ s.chip.busy = false
      ∧ ∀ x, chipByte s.chip x = doneTo d j s.req b (frameStart d j s) x
  | .mutate i =>
    i = j ∧ protectBits d s.chip = 0 ∧ s.chip.busy = false ∧ s.chip.wel = true
      ∧ ∀ x, chipByte s.chip x = doneTo d j s.req b (frameStart d j s) x
  | .waitDone i =>
    i = j ∧ protectBits d s.chip = 0 ∧ ∀ x, chipByte s.chip x = doneTo d j s.req b (frameEnd d j s) x
  | .idle =>
    ∀ v, s.response = some (.ok v) →
      v = jobValue d j s.req ∧ ∀ x, chipByte s.chip x = doneTo d j s.req b (jobRange d j s.req).2 x
  | .openLink | .identClock | .identify | .deviceClock _ | .closeLink _ | .readData => False

/-- The run of job `j` on device `d`, accepted with the registers `r` when the array was `b`. -/
structure StoreRun (d : Descriptor) (j : Job) (r : ReqRegs) (b : Nat → Byte) (s : State) : Prop where
  inv : SessionInv s
  mem : MemoryInv s
  desc : s.desc = some d
  geom : s.chip.geom = some d
  req : s.req = r
  position : storeAt d j b s

section
variable {d : Descriptor} {j : Job} {r : ReqRegs} {b : Nat → Byte} {s t : State}

theorem storeAt_raiseError (e : ErrorRecord) (s : State) : storeAt d j b (raiseError e s) := by
  intro v hv
  cases hv

theorem storeAt_waitIdle (hp : s.phase = .waitIdle j) (hb : ∀ x, chipByte s.chip x = b x) : storeAt d j b s := by
  rw [storeAt, hp]
  exact ⟨rfl, hb⟩

theorem storeAt_writeEnable (hp : s.phase = .writeEnable j) (hfree : protectBits d s.chip = 0)
    (hidle : s.chip.busy = false) (hb : ∀ x, chipByte s.chip x = doneTo d j s.req b (frameStart d j s) x) :
    storeAt d j b s := by
  rw [storeAt, hp]
  exact ⟨rfl, hfree, hidle, hb⟩

theorem storeAt_waitDone (hp : s.phase = .waitDone j) (hfree : protectBits d s.chip = 0)
    (hb : ∀ x, chipByte s.chip x = doneTo d j s.req b (frameEnd d j s) x) : storeAt d j b s := by
  rw [storeAt, hp]
  exact ⟨rfl, hfree, hb⟩

theorem doneTo_start (x : Nat) : doneTo d j r b (jobRange d j r).1 x = b x := by
  rw [doneTo, if_neg (by omega)]

/-! ### Its steps -/

/-- A job that begins has its first frame at the start of its range. -/
theorem frameStart_beginJob {v : Byte} (hu : j ≠ .unlock) (hv : v &&& d.bpMask = 0) :
    frameStart d j (beginJob d j v s) = (jobRange d j s.req).1 := by
  obtain ⟨-, -, -, herase, hwrite⟩ := beginJob_free (s := s) hu hv
  cases j with
  | unlock => exact absurd rfl hu
  | eraseBulk => rw [frameStart, (beginJob_sameLink d _ v s).req]; rfl
  | eraseSectors => exact (herase rfl).1
  | write => exact (hwrite rfl).1

/-- The lock decision on an idle chip: with no protect bit in effect the first frame may come. -/
theorem storeAt_beginJob {v : Byte} (hu : j ≠ .unlock) (hv : v &&& d.bpMask = protectBits d s.chip)
    (hidle : s.chip.busy = false) (hb : ∀ x, chipByte s.chip x = b x) : storeAt d j b (beginJob d j v s) := by
  by_cases hfree : v &&& d.bpMask = 0
  · have hl := beginJob_sameLink d j v s
    refine storeAt_writeEnable (beginJob_free hu hfree).1 ?_ ?_ fun x => ?_
    · rw [hl.chip, ← hv, hfree]
    · rw [hl.chip, hidle]
    · rw [hl.chip, hb, frameStart_beginJob hu hfree, hl.req, doneTo_start]
  · rw [beginJob_locked hu hfree]
    exact storeAt_raiseError _ _

/-- A job that answers Ok has done its range. -/
theorem storeAt_succeed {v : Value} (hv : v = jobValue d j s.req)
    (hb : ∀ x, chipByte s.chip x = doneTo d j s.req b (jobRange d j s.req).2 x) : storeAt d j b (succeed v s) := by
  intro v' hv'
  cases hv'
  exact ⟨hv, hb⟩

/-- After a frame that is done, the next frame begins where it ended, or there is none left. -/
theorem storeAt_advanceJob {v : Byte} {m : Nat} (hg : Geometry m d) (hu : j ≠ .unlock) (hj : jobAdmitted d j s.req)
    (hpos : jobPosition d j s) (hfree : protectBits d s.chip = 0) (hidle : s.chip.busy = false)
    (hb : ∀ x, chipByte s.chip x = doneTo d j s.req b (frameEnd d j s) x) : storeAt d j b (advanceJob d j v s) := by
  obtain ⟨-, -, hend⟩ := frame_inside hg hj hpos
  have hlast (h : (jobRange d j s.req).2 ≤ frameEnd d j s) (x : Nat) :
      chipByte s.chip x = doneTo d j s.req b (jobRange d j s.req).2 x := by rw [hb, Nat.le_antisymm hend h]
  cases j with
  | unlock => exact absurd rfl hu
  | eraseBulk => exact storeAt_succeed rfl (hlast (Nat.le_refl _))
  | eraseSectors =>
    unfold advanceJob
    simp only
    split
    · exact storeAt_writeEnable rfl hfree hidle hb
    · next hge => exact storeAt_succeed rfl (hlast (Nat.not_lt.1 hge))
  | write =>
    unfold advanceJob
    simp only
    split
    · exact storeAt_writeEnable rfl hfree hidle hb
    · next hge =>
      obtain ⟨haddr, -⟩ := hpos
      refine storeAt_succeed rfl (hlast ?_)
      simp only [jobRange, frameEnd]
      omega

/-- The byte a successful status read answers on the session's own chip shows what the chip is. -/
theorem status_of_reply {reply : List Byte} (hd : s.desc = some d) (hg : s.chip.geom = some d) (hm : d.bpMask &&& 1 = 0)
    (hr : exchangeResult (nextChoice s) .rdsr s = some reply) :
    (exchanged .rdsr s).chip = chipSettle (nextChoice s) s.chip
      ∧ reply.headD 0 &&& d.bpMask = protectBits d s.chip
      ∧ statusBusy (reply.headD 0) = (chipSettle (nextChoice s) s.chip).busy := by
  obtain ⟨hx, rfl⟩ := exchangeResult_some.1 hr
  rw [exchangeReply_rdsr hd hg]
  exact ⟨exchangeChip_of_geom hd hg hx, freshStatus_protect hm, statusBusy_freshStatus hm⟩

/-- Every step of a run takes it to its next position. -/
theorem StoreRun.storeAt_of_leads (h : StoreRun d j r b s) (hu : j ≠ .unlock) (hl : CommandLeads s t) :
    storeAt d j b t := by
  have hg := desc_geometry h.inv h.desc
  have hpos := h.position
  have hstatus {reply : List Byte} := status_of_reply (reply := reply) h.desc h.geom hg.mask
  cases hl with
  | failed i cmd hc hp hx => exact storeAt_raiseError _ _
  | failedMutation i d' hd hp hx => exact storeAt_raiseError _ _
  | timeout i d' reply hd hp hr hb hn => exact storeAt_raiseError _ _
  | polls i d' reply hd hp hr hb hn =>
    obtain ⟨hchip, -, -⟩ := hstatus hr
    rcases hp with hp | hp
    · rw [storeAt, hp] at hpos
      obtain ⟨rfl, hold⟩ := hpos
      refine storeAt_waitIdle hp fun x => ?_
      simp only [recordStatus_chip, hchip, chipByte_chipSettle, hold]
    · rw [storeAt, hp] at hpos
      obtain ⟨rfl, hfree, hdone⟩ := hpos
      refine storeAt_waitDone hp ?_ fun x => ?_
      · simp only [recordStatus_chip, hchip, protectBits_chipSettle, hfree]
      · simp only [recordStatus_chip, hchip, chipByte_chipSettle, hdone]
        rfl
  | begins i d' reply hd hp hr hb =>
    rw [storeAt, hp] at hpos
    obtain ⟨rfl, hold⟩ := hpos
    cases h.desc.symm.trans hd
    obtain ⟨hchip, hprotect, hbusy⟩ := hstatus hr
    refine storeAt_beginJob hu ?_ ?_ fun x => ?_
    · simp only [recordStatus_chip, hchip, protectBits_chipSettle, hprotect]
    · simp only [recordStatus_chip, hchip, ← hbusy, hb]
    · simp only [recordStatus_chip, hchip, chipByte_chipSettle, hold]
  | advances i d' reply hd hp hr hb =>
    rw [storeAt, hp] at hpos
    obtain ⟨rfl, hfree, hdone⟩ := hpos
    cases h.desc.symm.trans hd
    obtain ⟨hchip, -, hbusy⟩ := hstatus hr
    obtain ⟨hj, hwork⟩ := position_of_job h.inv h.desc (.inr (.inr hp))
    refine storeAt_advanceJob hg hu hj (jobPosition_congr rfl rfl rfl hwork) ?_ ?_ fun x => ?_
    · simp only [recordStatus_chip, hchip, protectBits_chipSettle, hfree]
    · simp only [recordStatus_chip, hchip, ← hbusy, hb]
    · simp only [recordStatus_chip, hchip, chipByte_chipSettle, hdone]
      rfl
  | enables i reply hp hr =>
    rw [storeAt, hp] at hpos
    obtain ⟨rfl, hfree, hidle, hdone⟩ := hpos
    have hchip : (exchanged .wren s).chip = { s.chip with wel := true } := by
      rw [exchanged_chip, exchangeChip_of_geom h.desc h.geom (exchangeResult_some.1 hr).1, chipSettle_of_idle hidle]
      simp [chipCommand, hidle]
    rw [storeAt, hchip]
    exact ⟨rfl, hfree, hidle, rfl, hdone⟩
  | mutates i d' hd hp hx =>
    rw [storeAt, hp] at hpos
    obtain ⟨rfl, hfree, hidle, hwel, hdone⟩ := hpos
    cases h.desc.symm.trans hd
    obtain ⟨hj, hwork⟩ := position_of_job h.inv h.desc (.inr (.inl hp))
    have hstores := stores_jobFrame (c := nextChoice s) hg hu hj hwork h.mem hidle hwel hfree
    have hchip : (exchanged (jobFrame d i s) s).chip = chipCommand (nextChoice s) d (jobFrame d i s) s.chip := by
      rw [exchanged_chip, exchangeChip_of_geom h.desc h.geom hx, chipSettle_of_idle hidle]
    rw [storeAt, hchip]
    refine ⟨rfl, ?_, hstores.doneTo_frameEnd hg hj hwork hdone⟩
    rw [protectBits, hstores.bp]
    exact hfree
  | found _ _ hp | unknown _ hp | lost hp | failedRead _ _ hp | gathers _ _ _ hp =>
    rw [storeAt, hp] at hpos
    exact hpos.elim

/-- A run sends a command in every step till it ends. -/
theorem StoreRun.sends (h : StoreRun d j r b s) (hp : s.phase ≠ .idle) (hs : step s = .next t) :
    ∃ cmd, commandInFlight s = some cmd ∧ t = sendCommand cmd s := by
  have hpos := h.position
  cases step_leads hs with
  | command cmd hc => exact ⟨cmd, hc, rfl⟩
  | openLink hp' | setIdentClock hp' | finishAttach _ hp' | closeFailed _ hp' =>
    rw [storeAt, hp'] at hpos
    exact hpos.elim
  | deliver hp' | request _ _ _ _ hp' | reserved _ _ hp' | reservedHeld _ _ hp' | newBlock _ hp' | probe _ _ _ _ hp'
  | probeUnknown _ _ _ hp' | chipIdles hp' => exact absurd hp' hp

theorem StoreRun.step (h : StoreRun d j r b s) (hu : j ≠ .unlock) (hp : s.phase ≠ .idle) (hs : step s = .next t) :
    StoreRun d j r b t := by
  have hinv := stepKeepsSession s t h.inv hs
  have hmem := stepKeepsMemoryCanonical s t h.mem hs
  obtain ⟨cmd, hc, rfl⟩ := h.sends hp hs
  have hh := handle_of_command h.inv hc
  have hl := sendCommand_open_sameLink (cmd := cmd) hh
  refine ⟨hinv, hmem, hl.desc.trans h.desc, ?_, hl.req.trans h.req, h.storeAt_of_leads hu (command_leads hh hc)⟩
  rw [hl.chip, exchanged_chip, exchangeChip_geom, h.geom]

/-- Where a run ends with Ok, the range of its job is done and the job's value answered. -/
theorem StoreRun.ends {k : Nat} {v : Value} (h : StoreRun d j r b s) (hu : j ≠ .unlock)
    (hk : untilIdle k s = some t) (hv : t.response = some (.ok v)) :
    v = jobValue d j r ∧ ∀ x, chipByte t.chip x = doneTo d j r b (jobRange d j r).2 x := by
  obtain ⟨hrun, hp⟩ := untilIdle_keeps (P := StoreRun d j r b) (fun _ _ h => h.step hu) h hk
  have hpos := hrun.position
  rw [storeAt, hp, hrun.req] at hpos
  exact hpos v hv

/-! ### Its beginning -/

/-- A ready block has no operation in flight. -/
theorem phase_of_ready (hi : SessionInv s) (hq : s.seq = .ready) : s.phase = .idle := by
  have h := seqAgrees_of_inv hi
  cases hp : s.phase with
  | idle => rfl
  | waitIdle i | writeEnable i | mutate i | waitDone i =>
    rw [seqAgrees, hp, hq] at h
    cases i <;> cases h
  | _ =>
    rw [seqAgrees, hp, hq] at h
    cases h

/-- A request answered at once has no run. -/
theorem eq_of_untilIdle {k : Nat} (hp : s.phase = .idle) (h : untilIdle k s = some t) : t = s :=
  (Option.some.inj ((untilIdle_idle hp).symm.trans h)).symm

/-- An accepted request keeps the session invariant. -/
theorem exec_ready_inv {i : Instr} (hi : SessionInv s) (hq : s.seq = .ready) (ha : acceptedIn i ≠ none)
    (hw : (portRecord i s).data.length < 2 ^ 32) (h : exec i s = .next t) : SessionInv t :=
  requestLeads_inv hi (phase_of_ready hi hq) hw (exec_request_leads ha h)

/-- A job that has been accepted begins a run. -/
theorem storeRun_enterJob {q : Seq} {p : Request} (hm : MemoryInv s) (hd : s.desc = some d) (hg : s.chip.geom = some d)
    (hi : SessionInv (enterJob q j (accept p s))) :
    StoreRun d j (latched p) (chipByte s.chip) (enterJob q j (accept p s)) :=
  ⟨hi, hm, hd, hg, rfl, storeAt_waitIdle rfl fun _ => rfl⟩

end

/-! ### The obligations -/

/-- Settles O43: a WRITE of no byte ends at once, any other is a run. -/
theorem writeOkAndsData : Obligations.WriteOkAndsData := by
  unfold Obligations.WriteOkAndsData
  intro s t u d o data k hi hm h hg hu hk hv x
  have hexec := hu
  have hd : s.desc = some d := h.2.2
  rw [exec_write_ready h, beginWrite_eq (by exact h.1)] at hu
  injection hu with hu
  split at hu
  · subst hu; cases eq_of_untilIdle rfl hk; cases hv
  · next hin =>
    split at hu
    · next hz =>
      subst hu
      cases eq_of_untilIdle rfl hk
      rw [if_neg (by omega)]
      rfl
    · have hsize := (desc_geometry hi hd).size_le
      have hw : (portRecord (.write o data) s).data.length < 2 ^ 32 := by
        show data.length < 2 ^ 32
        omega
      have hinv := exec_ready_inv hi h.1 (by simp [acceptedIn]) hw hexec
      subst hu
      exact ((storeRun_enterJob hm hd hg hinv).ends nofun hk hv).2 x

/-- Settles O44: an ERASE of an empty range ends at once, any other is a run, in bulk or by sectors. -/
theorem eraseOkErasesRange : Obligations.EraseOkErasesRange := by
  unfold Obligations.EraseOkErasesRange
  intro s t u d o n bulk bestEffort k lo hi' hi hm h hg hu hk hv
  have hd : s.desc = some d := h.2.2
  have hinv : SessionInv u := exec_ready_inv hi h.1 (by simp [acceptedIn]) (by exact (data_of_inv hi).2) hu
  rw [exec_erase_ready h, beginErase_eq (by exact h.1)] at hu
  injection hu with hu
  split at hu
  · subst hu; cases eq_of_untilIdle rfl hk; cases hv
  · split at hu
    · subst hu; cases eq_of_untilIdle rfl hk; cases hv
    · split at hu
      · next hz =>
        subst hu
        cases eq_of_untilIdle rfl hk
        cases hv
        refine ⟨rfl, fun x => ?_⟩
        rw [hz, if_neg (by omega)]
        rfl
      · subst hu
        have hrun := storeRun_enterJob hm hd hg hinv
        rcases eraseJob_cases d o.toNat n.toNat bulk with hj | hj
        all_goals
          rw [hj] at hk hrun
          obtain ⟨hvalue, hbyte⟩ := hrun.ends nofun hk hv
          cases hvalue
          exact ⟨rfl, hbyte⟩

end Sys2Proof.Machine
end

section
/-! The run of a READ on an idle chip whose exchanges all succeed (43_session_storage.md R225, R226): each step reads
one batch, and the batches make up the range asked. -/

namespace Sys2Proof.Machine

/-- The bytes of the chip's array at `[a, a + k)`. -/
def arrayBytes (ch : Chip) (a k : Nat) : List Byte := (List.range k).map fun i => chipByte ch (a + i)

@[simp] theorem arrayBytes_length (ch : Chip) (a k : Nat) : (arrayBytes ch a k).length = k := by simp [arrayBytes]

theorem arrayBytes_append (ch : Chip) (a k l : Nat) :
    arrayBytes ch a k ++ arrayBytes ch (a + k) l = arrayBytes ch a (k + l) := by
  simp [arrayBytes, List.range_add, Nat.add_assoc]

/-- The exchange of batch `j` of a READ of `n` bytes at `o` (R226). -/
def readBatch (d : Descriptor) (ch : Chip) (maxRead o n j : Nat) : WireEvent :=
  .xfer (.readData (BitVec.ofNat 24 (o + j * maxRead)) (min maxRead (n - j * maxRead)))
    (d.ops.read :: addr3 (BitVec.ofNat 24 (o + j * maxRead))) (min maxRead (n - j * maxRead))
    (some (arrayBytes ch (o + j * maxRead) (min maxRead (n - j * maxRead))))

/-- The exchanges of the first `j` batches, newest first. -/
def readBatches (d : Descriptor) (ch : Chip) (maxRead o n j : Nat) : List WireEvent :=
  ((List.range j).map (readBatch d ch maxRead o n)).reverse

theorem readBatches_succ (d : Descriptor) (ch : Chip) (maxRead o n j : Nat) :
    readBatches d ch maxRead o n (j + 1) = readBatch d ch maxRead o n j :: readBatches d ch maxRead o n j := by
  simp [readBatches, List.range_succ]

/-- The oracle holds a choice for each of the next `k` exchanges, and by all it holds the exchange succeeds. -/
def succeedsFor (k : Nat) (oracle : List Choice) : Prop := k ≤ oracle.length ∧ ∀ c ∈ oracle, c.xferFails = false

theorem nextChoice_mem {s : State} (h : s.oracle ≠ []) : nextChoice s ∈ s.oracle := by
  obtain ⟨c, cs, ho⟩ := List.exists_cons_of_ne_nil h
  simp [nextChoice, ho]

theorem nextChoice_of_succeedsFor {k : Nat} {s : State} (h : succeedsFor (k + 1) s.oracle) :
    (nextChoice s).xferFails = false ∧ succeedsFor k s.oracle.tail := by
  obtain ⟨hlen, hall⟩ := h
  have hne : s.oracle ≠ [] := List.ne_nil_of_length_pos (by omega)
  exact ⟨hall _ (nextChoice_mem hne), by rw [List.length_tail]; omega, fun c hc => hall c (List.mem_of_mem_tail hc)⟩

/-- The device, the request and the batch size of a READ that lies in the array. -/
structure ReadRequest (d : Descriptor) (s : State) (o n : Nat) : Prop where
  geom : s.chip.geom = some d
  idle : s.chip.busy = false
  inside : o + n ≤ d.size
  size_le : d.size ≤ 2 ^ 24
  maxRead_pos : 1 ≤ s.params.maxRead

/-- `t` is where the READ of `n` bytes at `o` that was accepted in `s` stands after `j` batches, with more to come. -/
structure ReadRun (d : Descriptor) (s : State) (o n j : Nat) (t : State) : Prop where
  phase : t.phase = .readData
  seq : t.seq = .reading
  handle : t.handle = .open
  desc : t.desc = some d
  params : t.params = s.params
  offset : t.req.offset.toNat = o
  length : t.req.length.toNat = n
  chip : t.chip = s.chip
  lastStatus : t.lastStatus = s.lastStatus
  lockStatus : t.lockStatus = s.lockStatus
  addr : t.addr = o + j * s.params.maxRead
  acc : t.acc = arrayBytes s.chip o (j * s.params.maxRead)
  more : j * s.params.maxRead < n
  choices : succeedsFor (n - j * s.params.maxRead) t.oracle
  wire : t.wire = readBatches d s.chip s.params.maxRead o n j ++ s.wire

/-- `t` is where that READ ends. -/
structure ReadEnds (d : Descriptor) (s : State) (o n : Nat) (t : State) : Prop where
  phase : t.phase = .idle
  response : t.response = some (.ok (.data (arrayBytes s.chip o n)))
  seq : t.seq = .ready
  chip : t.chip = s.chip
  lastStatus : t.lastStatus = s.lastStatus
  lockStatus : t.lockStatus = s.lockStatus
  wire : t.wire
    = readBatches d s.chip s.params.maxRead o n ((n + s.params.maxRead - 1) / s.params.maxRead) ++ s.wire

/-- The state that has taken the answer `r` to a batch. -/
def batchTaken (r : List Byte) (s : State) : State :=
  { s with acc := s.acc ++ r, addr := s.addr + batchLength s.params.maxRead s.req.length.toNat s.acc.length }

theorem gathered_readData {r : List Byte} {s : State} (hp : s.phase = .readData) :
    gathered r s =
      if (s.acc ++ r).length < s.req.length.toNat then batchTaken r s
      else succeed (.data (s.acc ++ r)) (batchTaken r s) := by
  simp only [gathered, hp, batchTaken]

section
variable {d : Descriptor} {s t : State} {o n j : Nat}

/-- An idle chip answers a read inside the array with the array's bytes (44_flash_device_model.md R260). -/
theorem exchangeReply_readData {c : Choice} {a k : Nat} (hd : s.desc = some d) (hg : s.chip.geom = some d)
    (hb : s.chip.busy = false) (hin : a + k ≤ d.size) (hsize : d.size ≤ 2 ^ 24) :
    exchangeReply c (.readData (addrField a) k) s = arrayBytes s.chip a k := by
  rw [exchangeReply_of_geom hd hg, chipSettle_of_idle hb]
  refine List.map_congr_left fun i hi => ?_
  have hi : i < k := List.mem_range.1 hi
  rw [replyByte, addrField_toNat (by omega), if_neg (by simp [hb]), if_pos (by omega)]

/-- The next batch. -/
theorem ReadRun.readFrame_eq (h : ReadRun d s o n j t) :
    readFrame t = .readData (addrField (o + j * s.params.maxRead))
      (min s.params.maxRead (n - j * s.params.maxRead)) := by
  rw [readFrame, h.addr, h.params, h.length, h.acc, arrayBytes_length, batchLength, Nat.min_comm]

/-- A step reads the next batch of the array, and leaves the chip as it is. -/
theorem ReadRun.step_gathers (h : ReadRun d s o n j t) (hr : ReadRequest d s o n)
    (hx : (nextChoice t).xferFails = false) :
    step t = .next (gathered (arrayBytes s.chip (o + j * s.params.maxRead)
        (min s.params.maxRead (n - j * s.params.maxRead))) (exchanged (readFrame t) t))
      ∧ (exchanged (readFrame t) t).chip = s.chip
      ∧ (exchanged (readFrame t) t).wire = readBatches d s.chip s.params.maxRead o n (j + 1) ++ s.wire := by
  have hmore := h.more
  have hin := hr.inside
  have hg : t.chip.geom = some d := by rw [h.chip]; exact hr.geom
  have hb : t.chip.busy = false := by rw [h.chip]; exact hr.idle
  have hreply : exchangeReply (nextChoice t) (readFrame t) t = arrayBytes s.chip (o + j * s.params.maxRead)
      (min s.params.maxRead (n - j * s.params.maxRead)) := by
    rw [h.readFrame_eq, exchangeReply_readData h.desc hg hb (by omega) hr.size_le, h.chip]
  refine ⟨?_, ?_, ?_⟩
  · rw [step_command (cmd := readFrame t) (by simp [commandInFlight, h.phase, h.desc]),
      sendCommand_answered h.handle hx, hreply]
    rfl
  · rw [exchanged_chip, exchangeChip_of_geom h.desc hg hx, chipSettle_of_idle hb]
    exact h.chip
  · have hops : opcodesOf t = d.ops := by simp [opcodesOf, h.desc]
    rw [exchanged_wire, exchangeResult_some.2 ⟨hx, rfl⟩, hreply, h.readFrame_eq, hops, h.wire, readBatches_succ]
    rfl

/-- So the READ goes on with the next batch, or ends with all it asked. -/
theorem ReadRun.step (h : ReadRun d s o n j t) (hr : ReadRequest d s o n) :
    ∃ u, step t = .next u ∧ (ReadRun d s o n (j + 1) u ∨ ReadEnds d s o n u) := by
  have hmore := h.more
  have hM := hr.maxRead_pos
  have hsucc : (j + 1) * s.params.maxRead = j * s.params.maxRead + s.params.maxRead := Nat.succ_mul _ _
  have hchoices := h.choices
  rw [show n - j * s.params.maxRead = n - j * s.params.maxRead - 1 + 1 by omega] at hchoices
  obtain ⟨hx, hlen, hall⟩ := nextChoice_of_succeedsFor hchoices
  obtain ⟨hstep, hchip, hwire⟩ := h.step_gathers hr hx
  have hacc : t.acc ++ arrayBytes s.chip (o + j * s.params.maxRead) (min s.params.maxRead (n - j * s.params.maxRead))
      = arrayBytes s.chip o (min ((j + 1) * s.params.maxRead) n) := by
    rw [h.acc, arrayBytes_append]
    congr 1
    omega
  rw [gathered_readData (s := exchanged (readFrame t) t) h.phase, exchanged_acc, hacc, arrayBytes_length, exchanged_req,
    h.length] at hstep
  refine ⟨_, hstep, ?_⟩
  split
  · next hlt =>
    have hlt : (j + 1) * s.params.maxRead < n := by omega
    refine .inl ⟨h.phase, h.seq, h.handle, h.desc, h.params, h.offset, h.length, hchip, h.lastStatus, h.lockStatus, ?_,
      ?_, hlt, ⟨?_, hall⟩, hwire⟩
    · show t.addr + batchLength t.params.maxRead t.req.length.toNat t.acc.length = _
      rw [h.addr, h.params, h.length, h.acc, arrayBytes_length, batchLength]
      omega
    · show t.acc ++ _ = _
      rw [hacc, Nat.min_eq_left (Nat.le_of_lt hlt)]
    · exact Nat.le_trans (by omega) hlen
  · next hge =>
    have hge : n ≤ (j + 1) * s.params.maxRead := by omega
    have hlast : (n + s.params.maxRead - 1) / s.params.maxRead = j + 1 :=
      Nat.div_eq_of_lt_le (by omega) (by rw [Nat.succ_mul]; omega)
    have hseq : seqAfterSuccess t.seq = .ready := by rw [h.seq]; rfl
    refine .inr ⟨rfl, ?_, hseq, hchip, h.lastStatus, h.lockStatus, by rw [hlast]; exact hwire⟩
    rw [succeed_response, Nat.min_eq_right hge]

/-- A run ends within as many steps as there are bytes left. -/
theorem ReadRun.ends (hr : ReadRequest d s o n) {k : Nat} (hk : n - j * s.params.maxRead ≤ k)
    (h : ReadRun d s o n j t) : ∃ u, untilIdle k t = some u ∧ ReadEnds d s o n u := by
  induction k generalizing j t with
  | zero =>
    have hmore := h.more
    omega
  | succ k ih =>
    have hp : t.phase ≠ .idle := by rw [h.phase]; nofun
    obtain ⟨u, hstep, hrun | hend⟩ := h.step hr
    · have hM := hr.maxRead_pos
      have hsucc : (j + 1) * s.params.maxRead = j * s.params.maxRead + s.params.maxRead := Nat.succ_mul _ _
      rw [untilIdle_succ hp hstep]
      exact ih (by omega) hrun
    · rw [untilIdle_succ hp hstep]
      exact ⟨u, untilIdle_idle hend.phase, hend⟩

end

/-- Settles O42, by induction on the batches read. -/
theorem readReturnsRequestedBytes : Obligations.ReadReturnsRequestedBytes := by
  unfold Obligations.ReadReturnsRequestedBytes
  intro s d o n hi h hg hb hin hn hlen hall
  have hd : s.desc = some d := h.2.2
  have hr : ReadRequest d s o.toNat n.toNat :=
    ⟨hg, hb, hin, (desc_geometry hi hd).size_le, (paramsWf_bounds (params_of_inv hi)).1⟩
  have hh : s.handle = .open := (attachedTo_of_desc hi (by rw [h.1]; rfl) hd).handle
  have hstart : ReadRun d s o.toNat n.toNat 0
      { accept (portRecord (.read o n) s) s with seq := .reading, phase := .readData, acc := [], addr := o.toNat } :=
    ⟨rfl, rfl, hh, hd, rfl, rfl, rfl, rfl, rfl, rfl, by simp, by simp [arrayBytes], by omega,
      ⟨by simpa using hlen, hall⟩, by simp [readBatches]⟩
  obtain ⟨t, hrun, hend⟩ := hstart.ends hr (Nat.sub_le _ _)
  refine ⟨_, t, ?_, hrun, hend.response, hend.seq, hend.chip, hend.lastStatus, hend.lockStatus, hend.wire⟩
  rw [exec_read_ready h, beginRead_eq (by exact h.1), if_neg (Nat.not_lt.2 hin), if_neg hn]

end Sys2Proof.Machine
end

section
/-! The flash device (44_flash_device_model.md R250-R268): a frame driven to it, its answers to RDSR and READ_DATA, its
latch, what each command leaves unchanged in it, and what a failed exchange may do to it. -/

namespace Sys2Proof.Machine

/-! ### A frame driven directly -/

theorem takeFrame_decoded {s : State} {w : List Byte} {n : Nat} {i : Instr} (hh : s.handle = .none)
    (hd : decode (chipOpcodes s) (.frame w n) = .ok i) : takeFrame w n s = exec i s := by
  simp only [takeFrame, hh, hd]

theorem takeFrame_undecoded {s : State} {w : List Byte} {n : Nat} {e : DecodeError} (hh : s.handle = .none)
    (hd : decode (chipOpcodes s) (.frame w n) = .error e) : takeFrame w n s = .next (probeUnknown n s) := by
  simp only [takeFrame, hh, hd]

/-- Settles O6, by whether the chip decodes the frame. -/
theorem stepRunsDirectFrame : Obligations.StepRunsDirectFrame := by
  unfold Obligations.StepRunsDirectFrame
  intro s w n rest hp hr hb hh
  rw [step_frame hp hr hb]
  exact ⟨fun i hd => takeFrame_decoded hh hd, fun e hd => ⟨_, takeFrame_undecoded hh hd, rfl, rfl, rfl, rfl⟩⟩

/-! ### What the chip answers -/

/-- The bytes chip `ch` of device `g` answers to `cmd`. -/
def chipReply (c : Choice) (g : Descriptor) (cmd : Command) (ch : Chip) : List Byte :=
  (List.range (responseLength cmd)).map (replyByte c g cmd ch)

/-- Who drives the frame gets the answer: the outside as the direct reply, the block over its link. -/
theorem sendCommand_reply_direct {cmd : Command} {s : State} {g : Descriptor} (h : reachesChip g s)
    (hh : s.handle = .none) :
    (sendCommand cmd s).probeReply = chipReply (nextChoice s) g cmd (chipSettle (nextChoice s) s.chip)
      ∧ (sendCommand cmd s).wire = s.wire := by
  rw [sendCommand_direct hh, probe_probeReply]
  exact ⟨by simp [chipReply, chipAnswers, h.1], rfl⟩

theorem reachesChip_linkedTo {g : Descriptor} {s : State} (h : reachesChip g s) (hh : s.handle = .open) :
    linkedTo g s := by
  obtain ⟨hg, hn | ⟨hd, hx⟩⟩ := h
  · rw [hh] at hn; cases hn
  · exact ⟨hh, hd, hg, hx⟩

/-- A status read with no operation in flight is recorded and nothing more (10_state.md R45). -/
theorem resume_rdsr_idle {d : Descriptor} {r : List Byte} {s : State} (hd : s.desc = some d) (hp : s.phase = .idle) :
    resume .rdsr r s = recordStatus d (r.headD 0) s := by
  simp only [resume, hd, statusRead, hp]

theorem sendCommand_rdsr_idle {d : Descriptor} {s : State} (h : linkedTo d s) (hp : s.phase = .idle) :
    sendCommand .rdsr s = recordStatus d (freshStatus d s) (exchanged .rdsr s) := by
  obtain ⟨hh, hd, hg, hx⟩ := h
  rw [sendCommand_answered hh hx, exchangeReply_rdsr hd hg, resume_rdsr_idle (s := exchanged .rdsr s) hd hp]
  rfl

/-- Settles O23: the answer is the status byte of the chip once a command that completes has completed. -/
theorem rdsrReturnsStatus : Obligations.RdsrReturnsStatus := by
  unfold Obligations.RdsrReturnsStatus
  intro s g h hm
  have hbusy : (freshStatus g s).getLsbD 0 = (s.chip.busy && !(nextChoice s).completes) :=
    (statusBusy_freshStatus hm).trans (chipSettle_busy _ _)
  refine ⟨_, freshStatus g s, exec_commandInstr .rdsr s, sendCommand_chip h, hbusy, freshStatus_protect hm,
    fun hh => ?_, fun hh => sendCommand_wire h hh, fun hh hp => ?_⟩
  · obtain ⟨hreply, hwire⟩ := sendCommand_reply_direct (cmd := .rdsr) h hh
    exact ⟨hreply, hwire, by rw [sendCommand_direct hh, probe_lastStatus]⟩
  · rw [sendCommand_rdsr_idle (reachesChip_linkedTo h hh) hp]
    exact ⟨rfl, lockOf_eq _ _⟩

@[simp] theorem chipReply_length (c : Choice) (g : Descriptor) (cmd : Command) (ch : Chip) :
    (chipReply c g cmd ch).length = responseLength cmd := by
  simp [chipReply]

theorem chipReply_getElem? {c : Choice} {g : Descriptor} {cmd : Command} {ch : Chip} {i : Nat}
    (hi : i < responseLength cmd) : (chipReply c g cmd ch)[i]? = some (replyByte c g cmd ch i) := by
  simp [chipReply, hi]

theorem replyByte_readData_inside {c : Choice} {g : Descriptor} {a : FlashAddr} {k i : Nat} {ch : Chip}
    (hb : ch.busy = false) (hi : a.toNat + i < g.size) :
    replyByte c g (.readData a k) ch i = chipByte ch (a.toNat + i) := by
  simp [replyByte, hb, hi]

theorem replyByte_readData_past {c : Choice} {g : Descriptor} {a : FlashAddr} {k i : Nat} {ch : Chip}
    (hi : g.size ≤ a.toNat + i) : replyByte c g (.readData a k) ch i = Config.freeByte c.epoch i := by
  simp [replyByte, Nat.not_lt.2 hi]

/-- A busy chip answers a read with drawn bytes (R267). -/
theorem chipReply_readData_busy {c : Choice} {g : Descriptor} {a : FlashAddr} {k : Nat} {ch : Chip}
    (hb : ch.busy = true) : chipReply c g (.readData a k) ch = (List.range k).map (Config.freeByte c.epoch) :=
  List.map_congr_left fun _ _ => if_pos hb

/-- Settles O29, by whether the chip is busy when the frame reaches it. -/
theorem readDataReturnsArray : Obligations.ReadDataReturnsArray := by
  unfold Obligations.ReadDataReturnsArray
  refine ⟨fun s g a k h hb => ⟨_, chipReply (nextChoice s) g (.readData a k) (chipSettle (nextChoice s) s.chip),
      exec_commandInstr (.readData a k) s, sendCommand_chip h, chipReply_length _ _ _ _, fun i hi hin => ?_,
      fun i hi hout => ?_, fun hh => sendCommand_wire h hh, sendCommand_reply_direct h⟩,
    fun s g a k h hb hc => ⟨_, exec_commandInstr (.readData a k) s, ?_, fun hh => ?_, fun hh => ?_⟩⟩
  · rw [chipReply_getElem? hi, replyByte_readData_inside hb hin, chipByte_chipSettle]
  · rw [chipReply_getElem? hi, replyByte_readData_past hout]
  · rw [sendCommand_chip h, chipSettle_of_stays hc]
    rfl
  · rw [← chipReply_readData_busy hb, ← chipSettle_of_stays (ch := s.chip) hc]
    exact sendCommand_wire h hh
  · rw [← chipReply_readData_busy hb, ← chipSettle_of_stays (ch := s.chip) hc]
    exact sendCommand_reply_direct h hh

/-! ### The latch -/

theorem chipSettle_of_completes {c : Choice} {ch : Chip} (hb : ch.busy = true) (hc : c.completes = true) :
    chipSettle c ch = { ch with busy := false, wel := false } := by
  simp [chipSettle, hb, hc]

theorem chipWrsr_unlatched {c : Choice} {g : Descriptor} {v : Byte} {ch : Chip} (hw : ch.wel = false) :
    chipWrsr c g v ch = ch := by
  simp [chipWrsr, hw]

theorem chipSe_unlatched {c : Choice} {g : Descriptor} {a : Nat} {ch : Chip} (hw : ch.wel = false) :
    chipSe c g a ch = ch := by
  simp [chipSe, hw]

theorem chipBe_unlatched {c : Choice} {g : Descriptor} {ch : Chip} (hw : ch.wel = false) : chipBe c g ch = ch := by
  simp [chipBe, hw]

theorem chipPp_unlatched {c : Choice} {g : Descriptor} {a : Nat} {data : List Byte} {ch : Chip} (hw : ch.wel = false) :
    chipPp c g a data ch = ch := by
  simp [chipPp, hw]

/-- An idle chip carries each command out (R252-R260). -/
theorem chipCommand_idle {c : Choice} {g : Descriptor} {cmd : Command} {ch : Chip} (hb : ch.busy = false) :
    chipCommand c g cmd ch = match cmd with
      | .rdid | .rdsr | .readData _ _ => ch
      | .wren => { ch with wel := true }
      | .wrdi => { ch with wel := false }
      | .wrsr v => chipWrsr c g v ch
      | .se a => chipSe c g a.toNat ch
      | .be => chipBe c g ch
      | .pp a d => chipPp c g a.toNat d ch := by
  cases cmd <;> simp [chipCommand, hb]

/-- Without its latch an idle chip obeys WREN alone. -/
theorem chipCommand_unlatched {c : Choice} {g : Descriptor} {cmd : Command} {ch : Chip} (hb : ch.busy = false)
    (hw : ch.wel = false) : chipCommand c g cmd ch = { ch with wel := decide (cmd = .wren) } := by
  have hsame : ch = { ch with wel := false } := by rw [← hw]
  rw [chipCommand_idle hb]
  cases cmd with
  | rdid | rdsr | readData => exact hsame
  | wren | wrdi => rfl
  | wrsr => exact (chipWrsr_unlatched hw).trans hsame
  | se => exact (chipSe_unlatched hw).trans hsame
  | be => exact (chipBe_unlatched hw).trans hsame
  | pp => exact (chipPp_unlatched hw).trans hsame

theorem resume_mutating {cmd : Command} {r : List Byte} {s : State} (hm : commandMutates cmd = true) :
    resume cmd r s = mutationSent s := by
  cases cmd with
  | wrsr | se | be | pp => rfl
  | rdid | rdsr | wren | wrdi | readData => cases hm

theorem mutationSent_response (s : State) : (mutationSent s).response = s.response := by
  unfold mutationSent
  split <;> rfl

/-- A mutating command that reaches the chip answers no request, so it raises no error. -/
theorem sendCommand_mutating_response {cmd : Command} {s : State} {g : Descriptor} (h : reachesChip g s)
    (hm : commandMutates cmd = true) : (sendCommand cmd s).response = s.response := by
  cases hh : s.handle with
  | none => rw [sendCommand_direct hh, probe_response]
  | _ =>
    obtain ⟨-, -, -, hx⟩ := reachesChip_linkedTo h hh
    rw [sendCommand_answered hh hx, resume_mutating hm, mutationSent_response, exchanged_response]

theorem chipIdles_busy {s : State} (hb : s.chip.busy = true) :
    chipIdles s = { spend s with chip := chipSettle (nextChoice s) s.chip } := by
  simp [chipIdles, hb]

/-- Settles O30: a chip whose command completed is an idle one without its latch. -/
theorem latchGatesAndClears : Obligations.LatchGatesAndClears := by
  unfold Obligations.LatchGatesAndClears
  refine ⟨fun s g cmd h hw hm => ⟨_, exec_commandInstr cmd s, ?_,
      sendCommand_mutating_response (reachesIdle_reachesChip h) hm⟩,
    fun s hp hr hi hb hc => ⟨_, step_chipIdles hp hr hi, ?_⟩,
    fun s g cmd h hb hc => ⟨_, exec_commandInstr cmd s, ?_⟩⟩
  · have hne : cmd ≠ .wren := by rintro rfl; cases hm
    rw [sendCommand_chip_idle h, chipCommand_unlatched h.2.1 hw, decide_eq_false hne, ← hw]
  · rw [chipIdles_busy hb]
    exact chipSettle_of_completes hb hc
  · rw [sendCommand_chip h, chipSettle_of_completes hb hc, chipCommand_unlatched rfl rfl]

/-! ### What each command leaves unchanged in the chip -/

/-- `ch'` is `ch` but for the latch, busy and bytes in `[lo, hi)`. -/
structure SameOutside (lo hi : Nat) (ch ch' : Chip) : Prop where
  id : ch'.id = ch.id
  bp : ch'.bp = ch.bp
  bytes : ∀ x, x < lo ∨ hi ≤ x → chipByte ch' x = chipByte ch x

theorem sameOutside_flags (lo hi : Nat) (ch : Chip) (w b : Bool) :
    SameOutside lo hi ch { ch with wel := w, busy := b } := ⟨rfl, rfl, fun _ _ => rfl⟩

theorem sameOutside_store {ch : Chip} (h : chipWf ch) (lo n : Nat) (f : Nat → Byte) (w b : Bool) :
    SameOutside lo (lo + n) ch { chipStore ch lo n f with wel := w, busy := b } :=
  ⟨rfl, rfl, fun x hx => (chipByte_chipStore h lo n f x).trans (if_neg (by omega))⟩

section
variable {c : Choice} {g : Descriptor} {ch : Chip}

theorem chipWrsr_frame (v : Byte) :
    (chipWrsr c g v ch).id = ch.id ∧ ∀ x, chipByte (chipWrsr c g v ch) x = chipByte ch x := by
  cases hw : ch.wel with
  | false => rw [chipWrsr_unlatched hw]; exact ⟨rfl, fun _ => rfl⟩
  | true =>
    cases hr : c.refuses with
    | false => rw [chipWrsr_written hw hr]; exact ⟨rfl, fun _ => rfl⟩
    | true => rw [chipWrsr_refused hw hr]; exact ⟨rfl, fun _ => rfl⟩

theorem chipSe_sameOutside {a : Nat} (h : chipWf ch) (hin : floorTo a g.sectorSize + g.sectorSize ≤ g.size) :
    SameOutside (floorTo a g.sectorSize) (floorTo a g.sectorSize + g.sectorSize) ch (chipSe c g a ch) := by
  cases hw : ch.wel with
  | false => rw [chipSe_unlatched hw]; exact sameOutside_flags _ _ ch ch.wel ch.busy
  | true =>
    cases hp : protectedRange g ch (floorTo a g.sectorSize) g.sectorSize with
    | false => rw [chipSe_erased hw hin hp]; exact sameOutside_store h _ _ _ ch.wel true
    | true => rw [chipSe_protected hw hin hp]; exact sameOutside_flags _ _ ch c.wel ch.busy

theorem chipBe_sameOutside (h : chipWf ch) : SameOutside 0 (0 + g.size) ch (chipBe c g ch) := by
  cases hw : ch.wel with
  | false => rw [chipBe_unlatched hw]; exact sameOutside_flags _ _ ch ch.wel ch.busy
  | true =>
    by_cases hp : protectBits g ch = 0
    · rw [chipBe_erased hw hp]; exact sameOutside_store h _ _ _ ch.wel true
    · rw [chipBe_protected hw hp]; exact sameOutside_flags _ _ ch c.wel ch.busy

theorem chipPp_oversize {a : Nat} {data : List Byte} (hw : ch.wel = true)
    (hin : floorTo a g.pageSize + g.pageSize ≤ g.size) (hne : data ≠ []) (hbig : g.pageSize < data.length) :
    chipPp c g a data ch = { chipStore ch (floorTo a g.pageSize) g.pageSize (oversizedByte c g ch) with
      wel := c.wel, busy := c.busy } := by
  rw [chipPp, if_pos hw, if_pos ⟨hin, hne⟩, if_neg (Nat.not_le.2 hbig)]

theorem chipPp_sameOutside {a : Nat} {data : List Byte} (h : chipWf ch)
    (hin : floorTo a g.pageSize + g.pageSize ≤ g.size) (hne : data ≠ []) :
    SameOutside (floorTo a g.pageSize) (floorTo a g.pageSize + g.pageSize) ch (chipPp c g a data ch) := by
  cases hw : ch.wel with
  | false => rw [chipPp_unlatched hw]; exact sameOutside_flags _ _ ch ch.wel ch.busy
  | true =>
    rcases Nat.lt_or_ge g.pageSize data.length with hbig | hfit
    · rw [chipPp_oversize hw hin hne hbig]; exact sameOutside_store h _ _ _ c.wel c.busy
    · cases hp : protectedRange g ch (floorTo a g.pageSize) g.pageSize with
      | false => rw [chipPp_programmed hw hin hne hfit hp]; exact sameOutside_store h _ _ _ ch.wel true
      | true => rw [chipPp_protected hw hin hne hfit hp]; exact sameOutside_flags _ _ ch c.wel ch.busy

end

/-- Settles O34, command by command. -/
theorem commandChipFrame : Obligations.CommandChipFrame := by
  unfold Obligations.CommandChipFrame
  intro cmd s g h hm
  refine ⟨_, exec_commandInstr cmd s, ?_⟩
  rw [sendCommand_chip_idle h, chipCommand_idle h.2.1]
  cases cmd with
  | rdid | rdsr | readData | wren | wrdi => rfl
  | wrsr v => exact chipWrsr_frame v
  | se a =>
    intro hin
    have hs := chipSe_sameOutside (c := nextChoice s) hm hin
    exact ⟨hs.id, hs.bp, hs.bytes⟩
  | be =>
    have hs := chipBe_sameOutside (c := nextChoice s) (g := g) hm
    exact ⟨hs.id, hs.bp, fun x hx => hs.bytes x (.inr (by omega))⟩
  | pp a data =>
    intro hne hin
    have hs := chipPp_sameOutside (c := nextChoice s) hm hin hne
    exact ⟨hs.id, hs.bp, hs.bytes⟩

/-! ### A failed exchange -/

/-- A failed exchange with a chip the session's descriptor agrees with. -/
theorem sendCommand_chip_failed {cmd : Command} {s : State} (hh : s.handle = .open) (hm : mismatched s = false)
    (hx : (nextChoice s).xferFails = true) :
    (sendCommand cmd s).chip = chipFails (nextChoice s) cmd (chipSettle (nextChoice s) s.chip) := by
  rw [sendCommand_chip_open hh]
  simp [exchangeChip, hm, hx]

theorem chipFails_torn {c : Choice} {cmd : Command} {ch : Chip} {g : Descriptor} (hg : ch.geom = some g)
    (hb : ch.busy = false) : chipFails c cmd ch = chipTorn c g cmd ch := by
  cases cmd with
  | rdid | rdsr | readData => rfl
  | _ => simp [chipFails, hg, hb]

theorem chipTorn_se_outside {c : Choice} {g : Descriptor} {a : FlashAddr} {ch : Chip}
    (hout : ¬ floorTo a.toNat g.sectorSize + g.sectorSize ≤ g.size) :
    chipTorn c g (.se a) ch = chipUnprotectedOpen c g ch := if_neg hout

theorem chipTorn_pp_outside {c : Choice} {g : Descriptor} {a : FlashAddr} {data : List Byte} {ch : Chip}
    (hout : ¬ floorTo a.toNat g.pageSize + g.pageSize ≤ g.size) :
    chipTorn c g (.pp a data) ch = chipUnprotectedOpen c g ch := if_neg hout

theorem chipTorn_se_inside {c : Choice} {g : Descriptor} {a : FlashAddr} {ch : Chip}
    (hin : floorTo a.toNat g.sectorSize + g.sectorSize ≤ g.size) :
    chipTorn c g (.se a) ch
      = { chipStore ch (floorTo a.toNat g.sectorSize) g.sectorSize (tornErase c ch) with wel := c.wel, busy := c.busy } :=
  if_pos hin

theorem chipTorn_pp_inside {c : Choice} {g : Descriptor} {a : FlashAddr} {data : List Byte} {ch : Chip}
    (hin : floorTo a.toNat g.pageSize + g.pageSize ≤ g.size) :
    chipTorn c g (.pp a data) ch
      = { chipStore ch (floorTo a.toNat g.pageSize) g.pageSize (clearedByte c ch) with wel := c.wel, busy := c.busy } :=
  if_pos hin

/-- Byte `b` at address `x` has no bit set that the chip's byte has not, as R266 asks of a failed program. -/
def clears (ch : Chip) (x : Nat) (b : Byte) : Prop := b &&& chipByte ch x = b

/-- Or it is erased, as R266 allows too after a failed erase. -/
def erasedOrClears (ch : Chip) (x : Nat) (b : Byte) : Prop := b = 0xFF ∨ clears ch x b

theorem clears_clearedByte (c : Choice) (ch : Chip) (x : Nat) : clears ch x (clearedByte c ch x) := by
  rw [clears, clearedByte, BitVec.and_comm, ← BitVec.and_assoc, BitVec.and_self]

theorem erasedOrClears_tornErase (c : Choice) (ch : Chip) (x : Nat) : erasedOrClears ch x (tornErase c ch x) := by
  unfold tornErase
  split
  · exact .inl rfl
  · exact .inr (clears_clearedByte c ch x)

/-- Bytes stored in `[lo, lo + n)` are as `P` says of the bytes stored, and the rest as they were. -/
theorem chipStore_bytes {ch : Chip} {lo n : Nat} {f : Nat → Byte} (P : Nat → Byte → Prop) (h : chipWf ch)
    (hf : ∀ x, P x (f x)) (x : Nat) :
    if lo ≤ x ∧ x < lo + n then P x (chipByte (chipStore ch lo n f) x)
      else chipByte (chipStore ch lo n f) x = chipByte ch x := by
  rw [chipByte_chipStore h]
  split
  · exact hf x
  · rfl

/-- Settles O31, command by command. -/
theorem failedExchangeIsBounded : Obligations.FailedExchangeIsBounded := by
  unfold Obligations.FailedExchangeIsBounded
  refine ⟨fun s cmd hh hd hx hc =>
    ⟨_, exec_commandInstr cmd s, ?_, sendCommand_wire_failed hh hx⟩, fun s g cmd hh hd hg hb hm hx => ?_⟩
  · rw [sendCommand_chip_failed hh (mismatched_eq_false.2 hd) hx]
    obtain rfl | rfl | ⟨a, k, rfl⟩ := hc <;> rfl
  · have hchip : (sendCommand cmd s).chip = chipTorn (nextChoice s) g cmd s.chip := by
      rw [sendCommand_chip_failed hh (mismatched_of_geom hd hg) hx, chipSettle_of_idle hb, chipFails_torn hg hb]
    have hops : opcodesOf s = g.ops := by simp [opcodesOf, hd]
    refine ⟨_, exec_commandInstr cmd s, by rw [sendCommand_wire_failed hh hx, hops], ?_, ?_, ?_, ?_, ?_, ?_⟩ <;>
      rw [hchip]
    · rintro (rfl | rfl) <;> rfl
    · rintro v rfl
      rfl
    · rintro a rfl hin
      rw [chipTorn_se_inside hin]
      exact ⟨rfl, rfl, chipStore_bytes (erasedOrClears s.chip) hm (erasedOrClears_tornErase _ _)⟩
    · rintro rfl
      have hbytes := chipStore_bytes (lo := 0) (n := g.size) (erasedOrClears s.chip) hm
        (erasedOrClears_tornErase (nextChoice s) s.chip)
      simp only [Nat.zero_le, true_and, Nat.zero_add] at hbytes
      exact ⟨rfl, rfl, hbytes⟩
    · rintro a data rfl hin
      rw [chipTorn_pp_inside hin]
      exact ⟨rfl, rfl, chipStore_bytes (clears s.chip) hm (clears_clearedByte _ _)⟩
    · intro hout
      have hopen : chipTorn (nextChoice s) g cmd s.chip = chipUnprotectedOpen (nextChoice s) g s.chip := by
        obtain ⟨a, rfl, hout⟩ | ⟨a, data, rfl, hout⟩ := hout
        · exact chipTorn_se_outside hout
        · exact chipTorn_pp_outside hout
      rw [hopen]
      exact ⟨rfl, fun x hx hp => chipByte_chipUnprotectedOpen hx hp⟩

end Sys2Proof.Machine
end

section
/-! The error exit of a storage operation (60_exceptions.md R290): what a failed exchange leads to at every position of
UNLOCK, ERASE, READ and WRITE; and the codes of the responses (R280). -/

namespace Sys2Proof.Machine

/-! ### A failed exchange of a storage operation -/

/-- A storage operation is about to make an exchange: one of job `j`, or one of a READ. -/
def storageExchange (j : Job) (s : State) : Prop :=
  s.phase = .waitIdle j ∨ s.phase = .writeEnable j ∨ s.phase = .mutate j ∨ s.phase = .waitDone j ∨ s.phase = .readData

section
variable {s : State} {j : Job}

theorem commandInFlight_storageExchange {d : Descriptor} (hd : s.desc = some d) (hp : storageExchange j s) :
    ∃ cmd, commandInFlight s = some cmd := by
  rcases hp with hp | hp | hp | hp | hp <;> simp [commandInFlight, hp, hd]

/-- An error of a storage operation ends it in Ready (R290). -/
theorem seqAfterError_storageExchange (hq : seqAgrees s) (hp : storageExchange j s) : seqAfterError s.seq = .ready := by
  by_cases hr : s.phase = .readData
  · rw [seq_of_read hq hr]
    rfl
  · rw [seq_of_job (j := j) hq (by unfold storageExchange at hp; tauto), seqAfterError_jobSeq]

/-- A step whose exchange fails takes the exit of the operation in flight. -/
theorem step_failed {cmd : Command} (hh : s.handle = .open) (hc : commandInFlight s = some cmd)
    (hx : (nextChoice s).xferFails = true) : step s = .next (abandon (exchanged cmd s)) := by
  rw [step_command hc, sendCommand_failed hh hx]

/-- The exit of a storage operation: the error reports the bytes committed for a WRITE only (R288), and a failed mutating
frame counts as sent (10_state.md R37). -/
theorem abandon_storageExchange (hp : storageExchange j s) :
    abandon s
      = raiseError (.transportError .exchange (if s.phase ≠ .readData ∧ j = .write then some s.done else none))
          { s with mutated := s.mutated || decide (s.phase = .mutate j) } := by
  rcases hp with hp | hp | hp | hp | hp <;> simp [abandon, hp, committed_eq] <;> rfl

/-- `last_status` is unknown after that exit exactly on or after the first mutating frame (R290). -/
theorem raiseError_storageExchange_lastStatus (j : Job) (c : Option Nat) (s : State) :
    (raiseError (.transportError .exchange c)
        { s with mutated := s.mutated || decide (s.phase = .mutate j) }).lastStatus
      = if s.mutated = true ∨ s.phase = .mutate j then none else s.lastStatus := by
  simp [statusAfterError]

end

/-- Settles O41: the exit is `raiseError` on the state after the exchange, from the sequencer state of the operation. -/
theorem transportErrorExit : Obligations.TransportErrorExit := by
  unfold Obligations.TransportErrorExit
  intro s d j hq hh hd hx hp
  obtain ⟨cmd, hc⟩ := commandInFlight_storageExchange hd hp
  have hstep := step_failed hh hc hx
  rw [abandon_storageExchange (j := j) (s := exchanged cmd s) hp] at hstep
  exact ⟨_, hstep, seqAfterError_storageExchange hq hp, rfl, hh, rfl, rfl, rfl, rfl,
    raiseError_storageExchange_lastStatus j _ (exchanged cmd s), rfl, rfl⟩

/-! ### The codes of the responses -/

/-- Settles O58. -/
theorem responseCodes : Obligations.ResponseCodes := by
  unfold Obligations.ResponseCodes
  exact ⟨fun _ => rfl, fun _ => rfl, fun _ _ => rfl, fun _ => rfl, fun _ => rfl, fun _ _ => rfl, fun _ => rfl,
    fun _ => rfl⟩

end Sys2Proof.Machine
end

section
/-! A reset is the creation of a block instance (70_reset_and_hazards.md R320). -/

namespace Sys2Proof.Machine

/-- No move of 10_state.md R32 starts in Released: what leaves it is a new block instance at the head of the queue. -/
theorem newBlock_of_leaves_released {s t : State} (hi : SessionInv s) (hq : s.seq = .released) (h : step s = .next t)
    (ht : t.seq ≠ .released) : s.inbox.head? = some .newBlock := by
  rcases sequencerTransitionsLegal s t hi h with hsame | hmove | ⟨-, -, hb⟩
  · exact absurd (hsame.trans hq) ht
  · simp [hq] at hmove
  · exact hb

/-- Settles O60: the step on a new block instance is `newBlock`, and O45 lists what may leave Released. -/
theorem newBlockResets : Obligations.NewBlockResets := by
  unfold Obligations.NewBlockResets
  refine ⟨fun s rest hp hr hb => ?_, fun s t => newBlock_of_leaves_released⟩
  exact ⟨_, step_newBlock hp hr hb, rfl, rfl, rfl, rfl, rfl, rfl, rfl, rfl, rfl, rfl, rfl, rfl, rfl⟩

end Sys2Proof.Machine
end
